-- ==== Sys2Proof/Word.lean ====
section
/-! DEFINITION. The bit vectors the hardware is made of (spec/00_scope.md R8, R10): bytes, 16-bit words, and the
4-bit and 12-bit fields of an instruction word. All values are unsigned. -/

namespace Sys2Proof

/-- An 8-bit value: a general register, a timer, a memory byte, the constant `kk` (R8 `V_WIDTH`, R92). -/
abbrev Byte := BitVec 8

/-- A 16-bit value: an instruction word, `pc`, `I`, a stack slot (R8, R24, R27, R28). -/
abbrev Word := BitVec 16

/-- A 4-bit value: a register index, a row count, a key index (R92, R200). -/
abbrev Nibble := BitVec 4

/-- The 12-bit address field `nnn` (R92). -/
abbrev Addr12 := BitVec 12

end Sys2Proof
end

