-- ==== Sys2Proof/Syntax.lean ====
section
/-! DEFINITION. The typed operations of the decoder: one constructor for each row of spec/opcode_table.json, in the
table's order, carrying exactly the fields of spec/30_encoding.md R96. -/

namespace Sys2Proof

/-- The 35 instructions (R96, R100). `x` and `y` are register indices, `kk` a byte constant, `nnn` a 12-bit address,
`n` a row count; all are unsigned and every value is legal (R93). -/
inductive Instr where
  | clearScreen
  | ret
  | sys (nnn : Addr12)
  | jump (nnn : Addr12)
  | call (nnn : Addr12)
  | skipEqConst (x : Nibble) (kk : Byte)
  | skipNeConst (x : Nibble) (kk : Byte)
  | skipEqReg (x y : Nibble)
  | setConst (x : Nibble) (kk : Byte)
  | addConst (x : Nibble) (kk : Byte)
  | assign (x y : Nibble)
  | orReg (x y : Nibble)
  | andReg (x y : Nibble)
  | xorReg (x y : Nibble)
  | addReg (x y : Nibble)
  | subReg (x y : Nibble)
  | shiftRight (x y : Nibble)
  | subReverse (x y : Nibble)
  | shiftLeft (x y : Nibble)
  | skipNeReg (x y : Nibble)
  | setIndex (nnn : Addr12)
  | jumpOffset (nnn : Addr12)
  | random (x : Nibble) (kk : Byte)
  | draw (x y n : Nibble)
  | skipKeyPressed (x : Nibble)
  | skipKeyNotPressed (x : Nibble)
  | getDelay (x : Nibble)
  | waitKey (x : Nibble)
  | setDelay (x : Nibble)
  | setSound (x : Nibble)
  | addIndex (x : Nibble)
  | fontAddr (x : Nibble)
  | storeBcd (x : Nibble)
  | dumpRegs (x : Nibble)
  | loadRegs (x : Nibble)
  deriving DecidableEq, Repr

/-- The six formats of R94. -/
inductive Format where
  | lit
  | nnn
  | xkk
  | xys
  | xyn
  | xss
  deriving DecidableEq, Repr

/-- The format of each instruction (R94, R100). -/
def Instr.format : Instr → Format
  | .clearScreen | .ret => .lit
  | .sys _ | .jump _ | .call _ | .setIndex _ | .jumpOffset _ => .nnn
  | .skipEqConst _ _ | .skipNeConst _ _ | .setConst _ _ | .addConst _ _ | .random _ _ => .xkk
  | .skipEqReg _ _ | .assign _ _ | .orReg _ _ | .andReg _ _ | .xorReg _ _ | .addReg _ _ | .subReg _ _
  | .shiftRight _ _ | .subReverse _ _ | .shiftLeft _ _ | .skipNeReg _ _ => .xys
  | .draw _ _ _ => .xyn
  | .skipKeyPressed _ | .skipKeyNotPressed _ | .getDelay _ | .waitKey _ | .setDelay _ | .setSound _
  | .addIndex _ | .fontAddr _ | .storeBcd _ | .dumpRegs _ | .loadRegs _ => .xss

end Sys2Proof
end

