-- ==== Sys2Proof/WellFormed.lean ====
section
/-! DEFINITION. Which instructions have an encoding of their own (spec/30_encoding.md R104). -/

namespace Sys2Proof

/-- "A well-formed `Sys` has `nnn` different from both" 0x0E0 and 0x0EE, the words of `CLS` and `RET` (R98, R104).
Every operand of every other instruction is legal (R93). -/
def Instr.wellFormed : Instr → Bool
  | .sys nnn => nnn != 0x0E0#12 && nnn != 0x0EE#12
  | _ => true

end Sys2Proof
end

