-- ==== Sys2Proof/Decode.lean ====
section
/-! DEFINITION. The instruction decoder (spec/30_encoding.md R91 to R106), its opcode map as the ordered list of
(mask, match) rows of R100, and the encoder of R105. -/

namespace Sys2Proof

/-! ## Fields (R91, R92) -/

/-- Bits 15:12, the top nibble. -/
def fieldOp (w : Word) : Nibble := w.extractLsb' 12 4

/-- Bits 11:0. -/
def fieldNnn (w : Word) : Addr12 := w.extractLsb' 0 12

/-- Bits 11:8. -/
def fieldX (w : Word) : Nibble := w.extractLsb' 8 4

/-- Bits 7:4. -/
def fieldY (w : Word) : Nibble := w.extractLsb' 4 4

/-- Bits 3:0. -/
def fieldN (w : Word) : Nibble := w.extractLsb' 0 4

/-- Bits 7:0. -/
def fieldKk (w : Word) : Byte := w.extractLsb' 0 8

/-! ## The decoder -/

/-- The one error of the decoder: `DecodeError::UnsupportedInstruction{raw: word}` (R95, R102). -/
inductive DecodeError where
  | unsupportedInstruction (raw : Word)
  deriving DecidableEq, Repr

/-- What the decoder answers: a typed operation or the error (R95). -/
abbrev Decoded := Except DecodeError Instr

/-- Family 0: the two literals before the generic variant (R98). -/
def decodeFamily0 (w : Word) : Decoded :=
  if w = 0x00E0 then .ok .clearScreen
  else if w = 0x00EE then .ok .ret
  else .ok (.sys (fieldNnn w))

/-- Families 5 and 9: the low nibble must be 0 (R97). -/
def decodeLowNibbleZero (w : Word) (i : Instr) : Decoded :=
  if fieldN w = 0 then .ok i else .error (.unsupportedInstruction w)

/-- Family 8: second level on the low nibble (R97, R101). -/
def decodeFamily8 (w : Word) : Decoded :=
  let x := fieldX w
  let y := fieldY w
  let n := fieldN w
  if n = 0x0 then .ok (.assign x y)
  else if n = 0x1 then .ok (.orReg x y)
  else if n = 0x2 then .ok (.andReg x y)
  else if n = 0x3 then .ok (.xorReg x y)
  else if n = 0x4 then .ok (.addReg x y)
  else if n = 0x5 then .ok (.subReg x y)
  else if n = 0x6 then .ok (.shiftRight x y)
  else if n = 0x7 then .ok (.subReverse x y)
  else if n = 0xE then .ok (.shiftLeft x y)
  else .error (.unsupportedInstruction w)

/-- Family E: second level on the low byte (R97, R101). -/
def decodeFamilyE (w : Word) : Decoded :=
  let x := fieldX w
  let kk := fieldKk w
  if kk = 0x9E then .ok (.skipKeyPressed x)
  else if kk = 0xA1 then .ok (.skipKeyNotPressed x)
  else .error (.unsupportedInstruction w)

/-- Family F: second level on the low byte (R97, R101). -/
def decodeFamilyF (w : Word) : Decoded :=
  let x := fieldX w
  let kk := fieldKk w
  if kk = 0x07 then .ok (.getDelay x)
  else if kk = 0x0A then .ok (.waitKey x)
  else if kk = 0x15 then .ok (.setDelay x)
  else if kk = 0x18 then .ok (.setSound x)
  else if kk = 0x1E then .ok (.addIndex x)
  else if kk = 0x29 then .ok (.fontAddr x)
  else if kk = 0x33 then .ok (.storeBcd x)
  else if kk = 0x55 then .ok (.dumpRegs x)
  else if kk = 0x65 then .ok (.loadRegs x)
  else .error (.unsupportedInstruction w)

/-- `decode(word: 16-bit) -> Instruction | DecodeError`, the algorithm of R101: first the top nibble, then the
family's second level. Total and pure (R95). UNVERIFIED (log 13): the opcode numbers are general knowledge (G1). -/
def decode (w : Word) : Decoded :=
  let op := fieldOp w
  if op = 0x0 then decodeFamily0 w
  else if op = 0x1 then .ok (.jump (fieldNnn w))
  else if op = 0x2 then .ok (.call (fieldNnn w))
  else if op = 0x3 then .ok (.skipEqConst (fieldX w) (fieldKk w))
  else if op = 0x4 then .ok (.skipNeConst (fieldX w) (fieldKk w))
  else if op = 0x5 then decodeLowNibbleZero w (.skipEqReg (fieldX w) (fieldY w))
  else if op = 0x6 then .ok (.setConst (fieldX w) (fieldKk w))
  else if op = 0x7 then .ok (.addConst (fieldX w) (fieldKk w))
  else if op = 0x8 then decodeFamily8 w
  else if op = 0x9 then decodeLowNibbleZero w (.skipNeReg (fieldX w) (fieldY w))
  else if op = 0xA then .ok (.setIndex (fieldNnn w))
  else if op = 0xB then .ok (.jumpOffset (fieldNnn w))
  else if op = 0xC then .ok (.random (fieldX w) (fieldKk w))
  else if op = 0xD then .ok (.draw (fieldX w) (fieldY w) (fieldN w))
  else if op = 0xE then decodeFamilyE w
  else decodeFamilyF w

/-! ## Words in memory (R60, R90) -/

/-- The word whose byte at the lower address is `hi`: fetch is big-endian (R60). UNVERIFIED (log 14). -/
def wordOfBytes (hi lo : Byte) : Word := hi ++ lo

/-- The two bytes of a word in the order of their addresses (R60). -/
def bytesOfWord (w : Word) : List Byte := [w.extractLsb' 8 8, w.extractLsb' 0 8]

/-- The decoder on bytes in the order of their addresses: the result and the bytes that are left. Every instruction
is two bytes long (R90); of fewer than two bytes there is no instruction word and the answer is `none`. -/
def decodeBytes : List Byte → Option (Decoded × List Byte)
  | hi :: lo :: rest => some (decode (wordOfBytes hi lo), rest)
  | _ => none

/-- The instruction the decoder reads from a word numbered as spec/opcode_table.json numbers it: bit 0 is the word's
least significant bit. -/
def decodeTableWord (nbits w : Nat) : Option Instr :=
  match decodeBytes (bytesOfWord (BitVec.ofNat 16 (w % 2 ^ nbits))) with
  | some (.ok i, _) => some i
  | _ => none

/-! ## The encoder (R105) -/

/-- Format NNN: `op ++ nnn`. -/
def encodeNnn (op : Nibble) (nnn : Addr12) : Word := op ++ nnn

/-- Format XKK: `op ++ x ++ kk`; format XSS with the selector for `kk`. -/
def encodeXkk (op x : Nibble) (kk : Byte) : Word := op ++ (x ++ kk)

/-- Format XYN: `op ++ x ++ y ++ n`; format XYS with the selector for `n`. -/
def encodeXyn (op x y n : Nibble) : Word := op ++ (x ++ (y ++ n))

/-- The word of an instruction (R105, with the opcodes and selectors of R100). -/
def encode : Instr → Word
  | .clearScreen => 0x00E0
  | .ret => 0x00EE
  | .sys nnn => encodeNnn 0x0 nnn
  | .jump nnn => encodeNnn 0x1 nnn
  | .call nnn => encodeNnn 0x2 nnn
  | .skipEqConst x kk => encodeXkk 0x3 x kk
  | .skipNeConst x kk => encodeXkk 0x4 x kk
  | .skipEqReg x y => encodeXyn 0x5 x y 0x0
  | .setConst x kk => encodeXkk 0x6 x kk
  | .addConst x kk => encodeXkk 0x7 x kk
  | .assign x y => encodeXyn 0x8 x y 0x0
  | .orReg x y => encodeXyn 0x8 x y 0x1
  | .andReg x y => encodeXyn 0x8 x y 0x2
  | .xorReg x y => encodeXyn 0x8 x y 0x3
  | .addReg x y => encodeXyn 0x8 x y 0x4
  | .subReg x y => encodeXyn 0x8 x y 0x5
  | .shiftRight x y => encodeXyn 0x8 x y 0x6
  | .subReverse x y => encodeXyn 0x8 x y 0x7
  | .shiftLeft x y => encodeXyn 0x8 x y 0xE
  | .skipNeReg x y => encodeXyn 0x9 x y 0x0
  | .setIndex nnn => encodeNnn 0xA nnn
  | .jumpOffset nnn => encodeNnn 0xB nnn
  | .random x kk => encodeXkk 0xC x kk
  | .draw x y n => encodeXyn 0xD x y n
  | .skipKeyPressed x => encodeXkk 0xE x 0x9E
  | .skipKeyNotPressed x => encodeXkk 0xE x 0xA1
  | .getDelay x => encodeXkk 0xF x 0x07
  | .waitKey x => encodeXkk 0xF x 0x0A
  | .setDelay x => encodeXkk 0xF x 0x15
  | .setSound x => encodeXkk 0xF x 0x18
  | .addIndex x => encodeXkk 0xF x 0x1E
  | .fontAddr x => encodeXkk 0xF x 0x29
  | .storeBcd x => encodeXkk 0xF x 0x33
  | .dumpRegs x => encodeXkk 0xF x 0x55
  | .loadRegs x => encodeXkk 0xF x 0x65

/-- The bytes of an instruction in the order of their addresses. -/
def encodeBytes (i : Instr) : List Byte := bytesOfWord (encode i)

/-! ## The opcode map (R100) -/

/-- One row of the map: a word selects it when `w & mask = pattern`. -/
structure OpcodeRow where
  mask : Word
  pattern : Word
  build : Word → Instr

/-- Whether the word selects the row (R100). -/
def OpcodeRow.selects (r : OpcodeRow) (w : Word) : Bool := (w &&& r.mask) == r.pattern

/-- Rows 1 to 3, family 0: the literals first (R98). -/
def opcodeRows0 : List OpcodeRow :=
  [⟨0xFFFF, 0x00E0, fun _ => .clearScreen⟩,
   ⟨0xFFFF, 0x00EE, fun _ => .ret⟩,
   ⟨0xF000, 0x0000, fun w => .sys (fieldNnn w)⟩]

/-- Rows 4 to 10. -/
def opcodeRows1to7 : List OpcodeRow :=
  [⟨0xF000, 0x1000, fun w => .jump (fieldNnn w)⟩,
   ⟨0xF000, 0x2000, fun w => .call (fieldNnn w)⟩,
   ⟨0xF000, 0x3000, fun w => .skipEqConst (fieldX w) (fieldKk w)⟩,
   ⟨0xF000, 0x4000, fun w => .skipNeConst (fieldX w) (fieldKk w)⟩,
   ⟨0xF00F, 0x5000, fun w => .skipEqReg (fieldX w) (fieldY w)⟩,
   ⟨0xF000, 0x6000, fun w => .setConst (fieldX w) (fieldKk w)⟩,
   ⟨0xF000, 0x7000, fun w => .addConst (fieldX w) (fieldKk w)⟩]

/-- Rows 11 to 19. -/
def opcodeRows8 : List OpcodeRow :=
  [⟨0xF00F, 0x8000, fun w => .assign (fieldX w) (fieldY w)⟩,
   ⟨0xF00F, 0x8001, fun w => .orReg (fieldX w) (fieldY w)⟩,
   ⟨0xF00F, 0x8002, fun w => .andReg (fieldX w) (fieldY w)⟩,
   ⟨0xF00F, 0x8003, fun w => .xorReg (fieldX w) (fieldY w)⟩,
   ⟨0xF00F, 0x8004, fun w => .addReg (fieldX w) (fieldY w)⟩,
   ⟨0xF00F, 0x8005, fun w => .subReg (fieldX w) (fieldY w)⟩,
   ⟨0xF00F, 0x8006, fun w => .shiftRight (fieldX w) (fieldY w)⟩,
   ⟨0xF00F, 0x8007, fun w => .subReverse (fieldX w) (fieldY w)⟩,
   ⟨0xF00F, 0x800E, fun w => .shiftLeft (fieldX w) (fieldY w)⟩]

/-- Rows 20 to 26. -/
def opcodeRows9toE : List OpcodeRow :=
  [⟨0xF00F, 0x9000, fun w => .skipNeReg (fieldX w) (fieldY w)⟩,
   ⟨0xF000, 0xA000, fun w => .setIndex (fieldNnn w)⟩,
   ⟨0xF000, 0xB000, fun w => .jumpOffset (fieldNnn w)⟩,
   ⟨0xF000, 0xC000, fun w => .random (fieldX w) (fieldKk w)⟩,
   ⟨0xF000, 0xD000, fun w => .draw (fieldX w) (fieldY w) (fieldN w)⟩,
   ⟨0xF0FF, 0xE09E, fun w => .skipKeyPressed (fieldX w)⟩,
   ⟨0xF0FF, 0xE0A1, fun w => .skipKeyNotPressed (fieldX w)⟩]

/-- Rows 27 to 35. -/
def opcodeRowsF : List OpcodeRow :=
  [⟨0xF0FF, 0xF007, fun w => .getDelay (fieldX w)⟩,
   ⟨0xF0FF, 0xF00A, fun w => .waitKey (fieldX w)⟩,
   ⟨0xF0FF, 0xF015, fun w => .setDelay (fieldX w)⟩,
   ⟨0xF0FF, 0xF018, fun w => .setSound (fieldX w)⟩,
   ⟨0xF0FF, 0xF01E, fun w => .addIndex (fieldX w)⟩,
   ⟨0xF0FF, 0xF029, fun w => .fontAddr (fieldX w)⟩,
   ⟨0xF0FF, 0xF033, fun w => .storeBcd (fieldX w)⟩,
   ⟨0xF0FF, 0xF055, fun w => .dumpRegs (fieldX w)⟩,
   ⟨0xF0FF, 0xF065, fun w => .loadRegs (fieldX w)⟩]

/-- The complete map in decode order: the first row a word selects wins (R98, R100). -/
def opcodeMap : List OpcodeRow :=
  opcodeRows0 ++ opcodeRows1to7 ++ opcodeRows8 ++ opcodeRows9toE ++ opcodeRowsF

/-- Decoding by the ordered match over (mask, match) pairs (R98); `decode` is the same function (R101). -/
def decodeByMap (w : Word) : Decoded :=
  match opcodeMap.find? (fun r => r.selects w) with
  | some r => .ok (r.build w)
  | none => .error (.unsupportedInstruction w)

end Sys2Proof
end

