-- ==== Sys2Proof/Config.lean ====
section
/-! DEFINITION. What one implementation fixes (spec/00_scope.md R8, R9) the free input `RND` (R7, R183),
and the free order of events (R7, R257). -/

namespace Sys2Proof.Config

/-! ## Fixed parameters (R8) -/

/-- `MEM_SIZE`: addresses 0x000 to 0xFFF. -/
def memSize : Nat := 4096

/-- `FONT_BASE`: where the glyph of digit 0 starts. -/
def fontBase : Nat := 0x000

/-- `GLYPH_COUNT`. -/
def glyphCount : Nat := 16

/-- `GLYPH_BYTES`. -/
def glyphBytes : Nat := 5

/-- `PROG_BASE`: where `LoadImage` puts byte 0 of an image. -/
def progBase : Nat := 0x200

/-- The longest image `LoadImage` takes: `0x1000 - 0x200` bytes (R285). -/
def maxImage : Nat := 3584

/-- `TICK_HZ`. No rule depends on it (R257, R296). -/
def tickHz : Nat := 60

/-! ## Open parameters (R9) -/

/-- What executing the generic 0NNN variant does (R9, R141; 92_eei_decisions.md D7). -/
inductive SysPolicy where
  | fault
  | call
  | nop
  deriving DecidableEq, Repr

/-- The open parameters of R9, as plain data. A machine is built with one value of them; no step changes it.
DESIGN CHOICE (log 1): `State` carries them, so that a statement about every state covers every setting. -/
structure Params where
  /-- `LEGACY_I_OVERFLOW_FLAG`: whether `ADD I,Vx` writes VF (R181). -/
  legacyIOverflowFlag : Bool
  /-- `SHIFT_USES_VY`: whether `SHR` and `SHL` shift `V[y]` (R174, R175). -/
  shiftUsesVy : Bool
  /-- `SYS_POLICY` (R141). -/
  sysPolicy : SysPolicy
  /-- `FONT_TABLE`: 16 glyphs of 5 bytes, glyph `d` at `5 * d` (R38). -/
  fontTable : Vector (Vector Byte 5) 16
  /-- `RESET_PC` (R9, R281). -/
  resetPc : Word
  /-- `INSTR_RATE_HZ`, unset by default. No rule depends on it (R296), so nothing reads it. DESIGN CHOICE (log 1): an
  optional natural number; the spec says "positive number" and not of what kind (0 is admitted here, fractions are
  not). -/
  instrRateHz : Option Nat
  deriving DecidableEq, Repr

/-! ## The free inputs -/

/-- The 8-bit input `RND` at its `k`-th sampling: a free value at each sampling, of no generator and under no law
(R7, R183; D12). It has no body: no proof can learn a value of it (log 3). -/
opaque rnd : Nat → Byte

/-- The atomic events of R7. `step` is the CORE's own; the others come from outside. -/
inductive Event where
  | step
  | tick
  | keyEvent (k : Nibble) (pressed : Bool)
  | presentAck
  | reset
  | loadImage (bytes : List Byte)
  deriving DecidableEq, Repr, Inhabited

/-- An endless order of events: which one comes `k`-th is free, so every endless interleaving that R257 allows is one
value of it. It has no body: no proof can learn an event of it (log 2). -/
opaque schedule : Nat → Event

end Sys2Proof.Config
end

