-- ==== Sys2Proof/Machine/Defaults.lean ====
section
/-! DEFINITION. The default values of the open parameters (spec/00_scope.md R9, spec/10_state.md R38). -/

namespace Sys2Proof.Machine

/-- The default `FONT_TABLE`: glyph `d` is row `d` of R38. UNVERIFIED (log 11): the bytes are general knowledge (G3). -/
def defaultFontTable : Vector (Vector Byte 5) 16 :=
  #v[#v[0xF0, 0x90, 0x90, 0x90, 0xF0],
     #v[0x20, 0x60, 0x20, 0x20, 0x70],
     #v[0xF0, 0x10, 0xF0, 0x80, 0xF0],
     #v[0xF0, 0x10, 0xF0, 0x10, 0xF0],
     #v[0x90, 0x90, 0xF0, 0x10, 0x10],
     #v[0xF0, 0x80, 0xF0, 0x10, 0xF0],
     #v[0xF0, 0x80, 0xF0, 0x90, 0xF0],
     #v[0xF0, 0x10, 0x20, 0x40, 0x40],
     #v[0xF0, 0x90, 0xF0, 0x90, 0xF0],
     #v[0xF0, 0x90, 0xF0, 0x10, 0xF0],
     #v[0xF0, 0x90, 0xF0, 0x90, 0x90],
     #v[0xE0, 0x90, 0xE0, 0x90, 0xE0],
     #v[0xF0, 0x80, 0x80, 0x80, 0xF0],
     #v[0xE0, 0x90, 0x90, 0x90, 0xE0],
     #v[0xF0, 0x80, 0xF0, 0x80, 0xF0],
     #v[0xF0, 0x80, 0xF0, 0x80, 0x80]]

/-- Every open parameter at its default (R9). -/
def defaultParams : Config.Params where
  legacyIOverflowFlag := false
  shiftUsesVy := false
  sysPolicy := .fault
  fontTable := defaultFontTable
  resetPc := 0x0200
  instrRateHz := none

end Sys2Proof.Machine
end

