-- ==== Sys2Proof/Machine/State.lean ====
section
/-! DEFINITION. The state of the machine (spec/10_state.md R20 to R43), the reasons a step can stop, and the state
after reset (R39). State is plain data. -/

namespace Sys2Proof.Machine

open Config (Event)

/-- The framebuffer `FB`: 32 rows of 64 one-bit pixels, row 0 at the top, column 0 at the left (R31). -/
abbrev Framebuffer := Vector (Vector Bool 64) 32

/-- `MEM`, as the addresses that differ from the reset contents: (address, byte) pairs in rising order of address
(log 12). What an unlisted address reads as is `Sys2Proof.Machine.resetByte`. -/
abbrev Memory := List Host.Cell

/-- The fault record `FAULT` (R35, R241). -/
inductive FaultRecord where
  /-- No fault since reset. -/
  | none
  /-- "The 16-bit word does not match any known opcode encoding" (R242); also `SYS` under `SYS_POLICY = Fault` (R141). -/
  | unsupportedInstruction (raw : Word)
  /-- A `CALL` with `SP = 16` (R243). -/
  | stackOverflow
  /-- A `RET` with `SP = 0` (R244). -/
  | stackUnderflow
  /-- An access above 0xFFF; `address` is the lowest such address, 17 bits (R62, R245). -/
  | outOfBoundsAccess (address : BitVec 17)
  deriving DecidableEq, Repr

/-- Every piece of state the spec gives the machine, the parameters it was built with, and three fields of the
model's own (`draws`, `agenda`, `supply`). -/
structure State where
  /-- `V[0]` to `V[15]` (R20); VF is `V[15]` (R22). -/
  v : Vector Byte 16
  /-- `I` (R27). -/
  idx : Word
  /-- `pc` (R24). -/
  pc : Word
  /-- `SP`, 0 to 16: the slots in use, which is the index of the next free slot (R28). DESIGN CHOICE (log 8). -/
  sp : Fin 17
  /-- `STACK[0]` to `STACK[15]` (R28). -/
  stack : Vector Word 16
  /-- `DT` (R29). -/
  dt : Byte
  /-- `ST` (R29). -/
  st : Byte
  /-- `MEM` (R30). -/
  mem : Memory
  /-- `FB` (R31). -/
  fb : Framebuffer
  /-- `DIRTY` (R32). -/
  dirty : Bool
  /-- `KEYS[0]` to `KEYS[15]`; `true` is pressed (R33). -/
  keys : Vector Bool 16
  /-- `HALT` (R35). -/
  halt : Bool
  /-- `FAULT` (R35). -/
  fault : FaultRecord
  /-- The open parameters (R9), fixed for the machine. DESIGN CHOICE (log 1). -/
  params : Config.Params
  /-- How often `RND` has been sampled; the model's own (log 3). -/
  draws : Nat
  /-- The events that come next, first one first. The model's own (log 2). -/
  agenda : List Event
  /-- What comes once the agenda is empty: `some k`, the free events `Config.schedule k`, `Config.schedule (k + 1)`, ...
  without end; `none`, nothing more from outside, and the CORE steps. The model's own (log 2). -/
  supply : Option Nat
  deriving DecidableEq, Repr

/-- Why a step has no next state. No instruction ends in one: the four faults of R241 are TAKEN, as next states. -/
inductive Fault where
  /-- Raised by `Sys2Proof.Machine.step` when `HALT = 1` and no event is due: "while `HALT = 1` no `Step` occurs"
  (R35, R248), so nothing can move. Safe: nothing is claimed of a next state where the spec has none (log 4). -/
  | halted
  deriving DecidableEq, Repr

/-- Why a step is refused. -/
inductive Refusal where
  /-- An instruction that has no meaning yet, by its mnemonic in spec/opcode_table.json. Raised by an arm of `exec`
  only; no arm raises it. Safe. -/
  | notModelled (mnemonic : String)
  /-- Raised by `Sys2Proof.Machine.deliver` for a `LoadImage` of more than 3584 bytes: "the hardware refuses it (the
  `LoadImage` event is not defined for `L > 3584`)" (R285). Safe (log 6). -/
  | imageTooLong
  deriving DecidableEq, Repr

/-- The outcome of a step. -/
abbrev Result := Host.Outcome State Fault Refusal

/-- The state after `Reset` of a machine built with the parameters `p` (R39, R280): the font is the source's, every
other value the spec's decision D18 (log 10). `draws`, `agenda` and `supply` are the model's (logs
2, 3). -/
def State.resetWith (p : Config.Params) : State where
  v := Vector.replicate 16 0
  idx := 0
  pc := p.resetPc
  sp := 0
  stack := Vector.replicate 16 0
  dt := 0
  st := 0
  mem := []
  fb := Vector.replicate 32 (Vector.replicate 64 false)
  dirty := false
  keys := Vector.replicate 16 false
  halt := false
  fault := .none
  params := p
  draws := 0
  agenda := []
  supply := none

/-- The machine right after reset, with every parameter at its default (R9, R39). -/
def State.reset : State := State.resetWith defaultParams

/-- The machine with parameters `p` right after reset, and an outside that never ends: its runs are the endless
interleavings of the events of R7 (R257; log 2). -/
def State.resetWithOutside (p : Config.Params) : State := { State.resetWith p with supply := some 0 }

end Sys2Proof.Machine
end

