-- ==== Sys2Proof/Machine/Ops.lean ====
section
/-! DEFINITION. The named operations over registers, memory, the call stack, the timers and the latches, among them
the one fault entry `raise` (spec/60_exceptions.md R246) and the one range check (spec/20_memory.md R62, R63).
No return from a fault exists (R248). -/

namespace Sys2Proof.Machine

open Config (Event)

/-! ## General registers (R20) -/

/-- `V[x]`. -/
def State.getV (s : State) (x : Nibble) : Byte := s.v[x.toNat]

/-- `V[x] <- b`. No register is hard-wired (R20). -/
def State.setV (s : State) (x : Nibble) (b : Byte) : State := { s with v := s.v.set x.toNat b }

/-! ## The other named registers (R34) -/

/-- `I <- a`: all 16 bits are kept (R27). -/
def State.setIdx (s : State) (a : Word) : State := { s with idx := a }

/-- `pc <- a`: never masked (R26). -/
def State.setPc (s : State) (a : Word) : State := { s with pc := a }

/-- `DT <- b`. -/
def State.setDt (s : State) (b : Byte) : State := { s with dt := b }

/-- `ST <- b`. -/
def State.setSt (s : State) (b : Byte) : State := { s with st := b }

/-- `DIRTY <- d`. -/
def State.setDirty (s : State) (d : Bool) : State := { s with dirty := d }

/-- The framebuffer replaced as a whole. -/
def State.setFb (s : State) (fb : Framebuffer) : State := { s with fb := fb }

/-- `MEM` replaced as a whole. -/
def State.setMem (s : State) (m : Memory) : State := { s with mem := m }

/-- `KEYS[k]` (R33). -/
def State.key (s : State) (k : Nibble) : Bool := s.keys[k.toNat]

/-- `KEYS[k] <- p` (R260). -/
def State.setKey (s : State) (k : Nibble) (p : Bool) : State := { s with keys := s.keys.set k.toNat p }

/-- The free input `RND` at the sampling that is due (R183). -/
def State.rndInput (s : State) : Byte := Config.rnd s.draws

/-- The sampling counted, so that the next one is another free value. -/
def State.countDraw (s : State) : State := { s with draws := s.draws + 1 }

/-- The agenda replaced. -/
def State.setAgenda (s : State) (a : List Event) : State := { s with agenda := a }

/-- What comes after the agenda replaced. -/
def State.setSupply (s : State) (o : Option Nat) : State := { s with supply := o }

/-! ## Which event comes next (R7, R257; log 2) -/

/-- The event that is due: the first one of the agenda, after the agenda the next one of the free schedule where one
goes on; `none` where the outside does nothing, so that only the CORE can move. -/
def State.due (s : State) : Option Event :=
  match s.agenda with
  | e :: _ => some e
  | [] => s.supply.map Config.schedule

/-- The due event used up. -/
def State.consume (s : State) : State :=
  match s.agenda with
  | _ :: rest => s.setAgenda rest
  | [] => s.setSupply (s.supply.map (· + 1))

/-! ## How `pc` advances (R140) -/

/-- The plain class: `pc <- pc0 + 2`. -/
def State.advance (s : State) : State := s.setPc (s.pc + 2)

/-- The skip class: `pc <- pc0 + 4` when the condition holds, else `pc0 + 2`. -/
def State.skipIf (s : State) (c : Bool) : State := s.setPc (if c then s.pc + 4 else s.pc + 2)

/-! ## Taking a fault -/

/-- Fault entry, `raise F(info)`: `HALT <- 1`, `FAULT <- F(info)`, "every other piece of state keeps its value"; `pc`
stays on the faulting instruction (R246). -/
def State.raise (s : State) (f : FaultRecord) : State := { s with halt := true, fault := f }

/-- An instruction that raises `f`. -/
def raising (f : FaultRecord) (s : State) : Result := .next (s.raise f)

/-! ## Memory (R30, R62 to R68) -/

/-- What an address nothing has written reads as: the reset contents, `FONT_TABLE` at 0x000 to 0x04F, glyph `d` at
`5 * d`, and zero elsewhere (R38, R39, R67). -/
def resetByte (p : Config.Params) (a : Nat) : Byte :=
  if h : a < 80 then (p.fontTable[a / 5]'(by omega))[a % 5]'(Nat.mod_lt _ (by decide)) else 0

/-- The byte at an address. -/
def Memory.read (p : Config.Params) : Memory → Nat → Byte
  | [], a => resetByte p a
  | (b, w) :: rest, a => if a = b then w else Memory.read p rest a

/-- The memory without its entry for an address. -/
def Memory.erase (m : Memory) (a : Nat) : Memory := m.filter (fun c => c.1 != a)

/-- An entry for an address that has none, put at its place in the rising order. -/
def Memory.insert (a : Nat) (b : Byte) : Memory → Memory
  | [] => [(a, b)]
  | (c, w) :: rest => if a < c then (a, b) :: (c, w) :: rest else (c, w) :: Memory.insert a b rest

/-- One byte written, the canonical form kept: no entry where the byte is what an unlisted address reads as. -/
def Memory.write (p : Config.Params) (m : Memory) (a : Nat) (b : Byte) : Memory :=
  if b = resetByte p a then m.erase a else Memory.insert a b (m.erase a)

/-- The canonical form from address `lo` on: addresses strictly rising, inside `MEM`, and no entry equal to what an
unlisted address reads as. -/
def Memory.wfFrom (p : Config.Params) : Nat → Memory → Bool
  | _, [] => true
  | lo, (a, b) :: rest =>
    decide (lo ≤ a) && decide (a < Config.memSize) && (b != resetByte p a) && Memory.wfFrom p (a + 1) rest

/-- The canonical form of memory. -/
def Memory.wf (p : Config.Params) (m : Memory) : Bool := Memory.wfFrom p 0 m

/-- `MemRead(a, 1)` inside a checked range (R11, R63; C11). -/
def State.readByte (s : State) (a : Nat) : Byte := Memory.read s.params s.mem a

/-- `MemWrite(a, 1, b)` inside a checked range (R11, R63; C11). -/
def State.writeByte (s : State) (a : Nat) (b : Byte) : State := s.setMem (Memory.write s.params s.mem a b)

/-- Bytes written at rising addresses from `a` on (R61). -/
def State.writeBytes (s : State) (a : Nat) : List Byte → State
  | [] => s
  | b :: bs => (s.writeByte a b).writeBytes (a + 1) bs

/-- The `n` bytes at `a`, `a + 1`, ... -/
def State.readBytes (s : State) (a n : Nat) : List Byte := (List.range n).map (fun k => s.readByte (a + k))

/-- Whether all of `a` to `a + n - 1` is inside 0x000 to 0xFFF; true of the empty range. A plain sum of naturals,
never wrapped or masked (R62, R63). -/
def inRange (a n : Nat) : Bool := n == 0 || decide (a + n ≤ Config.memSize)

/-- The lowest out-of-range address of a range that starts at `a` and is not inside memory: `a` when `a > 0xFFF`,
else 0x1000 (R63). -/
def lowestOutside (a : Nat) : BitVec 17 := if 0xFFF < a then BitVec.ofNat 17 a else 0x1000

/-- The range check of an instruction that touches `n` bytes from `I` on, made before any of its writes (R63): it
raises `OutOfBoundsAccess` or goes on with `k`. -/
def State.withRange (s : State) (n : Nat) (k : State → Result) : Result :=
  if inRange s.idx.toNat n then k s else raising (.outOfBoundsAccess (lowestOutside s.idx.toNat)) s

/-! ## The call stack (R28) -/

/-- `STACK[SP] <- a` and `SP <- SP + 1`, where `SP` is not 16. -/
def State.push (s : State) (a : Word) (h : s.sp.val < 16) : State :=
  { s with stack := s.stack.set s.sp.val a, sp := ⟨s.sp.val + 1, by omega⟩ }

/-- `SP <- SP - 1`; the slot keeps its value (R28). -/
def State.popSp (s : State) : State := { s with sp := ⟨s.sp.val - 1, by omega⟩ }

/-- `STACK[SP - 1]`, the slot a `RET` reads, where `SP` is not 0. -/
def State.top (s : State) (h : 0 < s.sp.val) : Word := s.stack[s.sp.val - 1]'(by omega)

/-- The pseudocode of `CALL nnn`: `StackOverflow` when `SP = 16`, else push `pc0` and jump (R143). -/
def State.callTo (s : State) (nnn : Addr12) : Result :=
  if h : s.sp.val < 16 then .next ((s.push s.pc h).setPc (nnn.setWidth 16)) else raising .stackOverflow s

/-! ## Instruction fetch (R60, R64) -/

/-- `MemRead(pc, 2)` with its range check: legal exactly when `pc <= 0xFFE`; the byte at the lower address is the high
byte (R60, R64). -/
def fetch (s : State) : Except FaultRecord Word :=
  if 0xFFE < s.pc.toNat then .error (.outOfBoundsAccess (lowestOutside s.pc.toNat))
  else .ok (wordOfBytes (s.readByte s.pc.toNat) (s.readByte (s.pc.toNat + 1)))

end Sys2Proof.Machine
end

