-- ==== Sys2Proof/Machine/Flags.lean ====
section
/-! DEFINITION. The flag register VF = V[15] and every flag computation (spec/10_state.md R22, R23;
spec/42_arith_flags_shifts.md R170 to R176). -/

namespace Sys2Proof.Machine

/-- The register that doubles as the flag (R22). -/
def vf : Nibble := 0xF

/-- VF written as a flag: exactly 0x00 or 0x01 (R22). -/
def State.setFlag (s : State) (f : Bool) : State := s.setV vf (if f then 1 else 0)

/-- The carry of `ADD Vx,Vy`: bit 8 of the 9-bit sum (R171). -/
def carryOut (a b : Byte) : Bool := (a.setWidth 9 + b.setWidth 9).getLsbD 8

/-- The flag of `SUB` and `SUBN` for `a - b`: 0 when `b > a` (borrow), else 1 (R172, R173, R176). -/
def notBorrow (a b : Byte) : Bool := !decide (a.toNat < b.toNat)

/-- The flag of `SHR`: the bit shifted out at the right (R174). -/
def shiftedOutRight (t : Byte) : Bool := t.getLsbD 0

/-- The flag of `SHL`: the bit shifted out at the left (R175). -/
def shiftedOutLeft (t : Byte) : Bool := t.getLsbD 7

/-- The legacy flag of `ADD I,Vx`: 1 when the unwrapped sum exceeds 0xFFF (R181). -/
def indexExceeds (sum : BitVec 17) : Bool := decide (0xFFF < sum.toNat)

/-- The two writes of the instructions of file 42, in their order: VF first, then `V[x]`, so that with `x = 15` the
result survives (R170). UNVERIFIED (log 18). -/
def State.setFlagThenV (s : State) (f : Bool) (x : Nibble) (b : Byte) : State := (s.setFlag f).setV x b

end Sys2Proof.Machine
end

