-- ==== Sys2Proof/Machine/Operands.lean ====
section
/-! DEFINITION. The operand forms (spec/30_encoding.md R92, R93; spec/46_memory_ops.md R220): the constants are used
as they stand, and these are the forms that read state. -/

namespace Sys2Proof.Machine

/-- A 4-bit selector taken from a register: its low four bits `V[x][3:0]` (R200, R221). UNVERIFIED (log 22). -/
def State.lowNibble (s : State) (x : Nibble) : Nibble := (s.getV x).extractLsb' 0 4

/-- The operand a shift reads: `V[y]` when `SHIFT_USES_VY`, else `V[x]` (R174, R175). -/
def State.shiftSource (s : State) (x y : Nibble) : Byte := if s.params.shiftUsesVy then s.getV y else s.getV x

/-- The target of `JP V0,nnn`: `zext_16(nnn) + zext_16(V[0])` (R145). -/
def State.offsetTarget (s : State) (nnn : Addr12) : Word := nnn.setWidth 16 + (s.getV 0).setWidth 16

/-- The unwrapped 17-bit sum of `ADD I,Vx` (R181). -/
def State.indexSum (s : State) (x : Nibble) : BitVec 17 := s.idx.setWidth 17 + (s.getV x).setWidth 17

/-- The smallest pressed key among those from `k` on, `fuel` of them left (R203). -/
def State.firstKeyFrom (s : State) : Nat → Nat → Option Nibble
  | _, 0 => none
  | k, fuel + 1 => if s.key (BitVec.ofNat 4 k) then some (BitVec.ofNat 4 k) else s.firstKeyFrom (k + 1) fuel

/-- The smallest `k` in 0..15 with `KEYS[k] = 1`, if there is one (R203). -/
def State.firstKey (s : State) : Option Nibble := s.firstKeyFrom 0 16

/-- The three decimal digits of a byte: hundreds, tens, ones (R222). -/
def bcdDigits (b : Byte) : List Byte :=
  [BitVec.ofNat 8 (b.toNat / 100), BitVec.ofNat 8 (b.toNat / 10 % 10), BitVec.ofNat 8 (b.toNat % 10)]

/-- `V[0]` to `V[n-1]`, in order (R223). -/
def State.firstRegs (s : State) (n : Nat) : List Byte := (List.range n).map (fun k => s.getV (BitVec.ofNat 4 k))

/-- `V[0]` to `V[n-1]` loaded from the addresses `a`, `a + 1`, ... (R224). -/
def State.loadFirst (s : State) (a : Nat) : Nat → State
  | 0 => s
  | n + 1 => (s.loadFirst a n).setV (BitVec.ofNat 4 n) ((s.loadFirst a n).readByte (a + n))

end Sys2Proof.Machine
end

