-- ==== Sys2Proof/Machine/Arith.lean ====
section
/-! DEFINITION. Arithmetic with flags, and shifts (spec/42_arith_flags_shifts.md R170 to R176). Operands are read
first, then VF is written, then `V[x]` (R170). -/

namespace Sys2Proof.Machine

/-- `ADD Vx,Vy` (R171). -/
def execAddReg (x y : Nibble) (s : State) : Result :=
  .next (s.setFlagThenV (carryOut (s.getV x) (s.getV y)) x (s.getV x + s.getV y)).advance

/-- `SUB Vx,Vy` (R172): `V[x] - V[y]`. -/
def execSubReg (x y : Nibble) (s : State) : Result :=
  .next (s.setFlagThenV (notBorrow (s.getV x) (s.getV y)) x (s.getV x - s.getV y)).advance

/-- `SUBN Vx,Vy` (R173): `V[y] - V[x]`. -/
def execSubReverse (x y : Nibble) (s : State) : Result :=
  .next (s.setFlagThenV (notBorrow (s.getV y) (s.getV x)) x (s.getV y - s.getV x)).advance

/-- `SHR` (R174): a logical shift by one. UNVERIFIED (log 19): the `SHIFT_USES_VY` form. -/
def execShiftRight (x y : Nibble) (s : State) : Result :=
  .next (s.setFlagThenV (shiftedOutRight (s.shiftSource x y)) x (s.shiftSource x y >>> 1)).advance

/-- `SHL` (R175). UNVERIFIED (log 19): the `SHIFT_USES_VY` form. -/
def execShiftLeft (x y : Nibble) (s : State) : Result :=
  .next (s.setFlagThenV (shiftedOutLeft (s.shiftSource x y)) x (s.shiftSource x y <<< 1)).advance

end Sys2Proof.Machine
end

