-- ==== Sys2Proof/Machine/ConstLogic.lean ====
section
/-! DEFINITION. Constants and register-to-register logic (spec/41_const_and_logic.md R160 to R166). None of them
writes VF as a flag. -/

namespace Sys2Proof.Machine

/-- `V[x] <- b` and `pc <- pc0 + 2`. -/
def State.putV (s : State) (x : Nibble) (b : Byte) : Result := .next (s.setV x b).advance

/-- `LD Vx,kk` (R160). -/
def execSetConst (x : Nibble) (kk : Byte) (s : State) : Result := s.putV x kk

/-- `ADD Vx,kk` (R161): the sum modulo 256, no flag. -/
def execAddConst (x : Nibble) (kk : Byte) (s : State) : Result := s.putV x (s.getV x + kk)

/-- `LD Vx,Vy` (R162). -/
def execAssign (x y : Nibble) (s : State) : Result := s.putV x (s.getV y)

/-- `OR Vx,Vy` (R163). -/
def execOrReg (x y : Nibble) (s : State) : Result := s.putV x (s.getV x ||| s.getV y)

/-- `AND Vx,Vy` (R164). -/
def execAndReg (x y : Nibble) (s : State) : Result := s.putV x (s.getV x &&& s.getV y)

/-- `XOR Vx,Vy` (R165). -/
def execXorReg (x y : Nibble) (s : State) : Result := s.putV x (s.getV x ^^^ s.getV y)

end Sys2Proof.Machine
end

