-- ==== Sys2Proof/Machine/ControlFlow.lean ====
section
/-! DEFINITION. The control flow instructions (spec/40_control_flow.md R140 to R150). -/

namespace Sys2Proof.Machine

/-- `RET` (R144): pop, then the normal advance, so `pc <- STACK[SP] + 2` after the decrement. UNVERIFIED (log 16). -/
def execRet (s : State) : Result :=
  if h : 0 < s.sp.val then .next (s.popSp.setPc (s.top h + 2)) else raising .stackUnderflow s

/-- `SYS nnn` (R141), as `SYS_POLICY` says. Its word is `0x0 ++ nnn`. UNVERIFIED (log 17). -/
def execSys (nnn : Addr12) (s : State) : Result :=
  match s.params.sysPolicy with
  | .fault => raising (.unsupportedInstruction (encodeNnn 0x0 nnn)) s
  | .call => s.callTo nnn
  | .nop => .next s.advance

/-- `JP nnn` (R142). -/
def execJump (nnn : Addr12) (s : State) : Result := .next (s.setPc (nnn.setWidth 16))

/-- `CALL nnn` (R143). UNVERIFIED (log 16): the saved value is `pc0`. -/
def execCall (nnn : Addr12) (s : State) : Result := s.callTo nnn

/-- `JP V0,nnn` (R145). UNVERIFIED (log 13). -/
def execJumpOffset (nnn : Addr12) (s : State) : Result := .next (s.setPc (s.offsetTarget nnn))

/-- `SE Vx,kk` (R146). -/
def execSkipEqConst (x : Nibble) (kk : Byte) (s : State) : Result := .next (s.skipIf (s.getV x == kk))

/-- `SNE Vx,kk` (R147). -/
def execSkipNeConst (x : Nibble) (kk : Byte) (s : State) : Result := .next (s.skipIf (s.getV x != kk))

/-- `SE Vx,Vy` (R148). -/
def execSkipEqReg (x y : Nibble) (s : State) : Result := .next (s.skipIf (s.getV x == s.getV y))

/-- `SNE Vx,Vy` (R149). -/
def execSkipNeReg (x y : Nibble) (s : State) : Result := .next (s.skipIf (s.getV x != s.getV y))

end Sys2Proof.Machine
end

