-- ==== Sys2Proof/Machine/Blitter.lean ====
section
/-! DEFINITION. The sprite XOR blitter (spec/44_display.md R190 to R193). UNVERIFIED (log 21): which bit is which
column is general knowledge (G4). -/

namespace Sys2Proof.Machine

/-- `FB[r][c]`. -/
def pixel (fb : Framebuffer) (r : Fin 32) (c : Fin 64) : Bool := fb[r][c]

/-- `FB[r][c] <- FB[r][c] ^ 1`. -/
def togglePixel (fb : Framebuffer) (r : Fin 32) (c : Fin 64) : Framebuffer :=
  fb.set r.val (fb[r].set c.val (!fb[r][c]))

/-- All 2048 pixels 0 (R191). -/
def blankScreen : Framebuffer := Vector.replicate 32 (Vector.replicate 64 false)

/-- Column `col` of a sprite row: bit 7 is column 0 (R190). -/
def spriteBit (b : Byte) (col : Nat) : Bool := b.getLsbD (7 - col)

/-- `(cx + col) mod 64` (R192). -/
def screenCol (cx : Byte) (col : Nat) : Fin 64 := ⟨(cx.toNat + col) % 64, Nat.mod_lt _ (by decide)⟩

/-- `(cy + row) mod 32` (R192). -/
def screenRow (cy : Byte) (row : Nat) : Fin 32 := ⟨(cy.toNat + row) % 32, Nat.mod_lt _ (by decide)⟩

/-- The blitter's result so far: the framebuffer and the collision flag. -/
structure Blit where
  fb : Framebuffer
  collision : Bool
  deriving DecidableEq, Repr

/-- The body of R192's inner loop. -/
def blitPixel (cx cy : Byte) (row : Nat) (b : Byte) (acc : Blit) (col : Nat) : Blit :=
  if spriteBit b col then
    { fb := togglePixel acc.fb (screenRow cy row) (screenCol cx col)
      collision := acc.collision || pixel acc.fb (screenRow cy row) (screenCol cx col) }
  else acc

/-- One sprite row: columns 0 to 7. -/
def blitRow (cx cy : Byte) (row : Nat) (b : Byte) (acc : Blit) : Blit :=
  (List.range 8).foldl (blitPixel cx cy row b) acc

/-- The sprite rows from number `row` on, top row first. -/
def blitRows (cx cy : Byte) : Nat → List Byte → Blit → Blit
  | _, [], acc => acc
  | row, b :: bs, acc => blitRows cx cy (row + 1) bs (blitRow cx cy row b acc)

/-- A whole sprite drawn with its top left pixel at `(cx, cy)`. -/
def blit (cx cy : Byte) (sprite : List Byte) (fb : Framebuffer) : Blit := blitRows cx cy 0 sprite ⟨fb, false⟩

end Sys2Proof.Machine
end

