-- ==== Sys2Proof/Machine/Display.lean ====
section
/-! DEFINITION. The display instructions (spec/44_display.md R191, R192). -/

namespace Sys2Proof.Machine

/-- `CLS` (R191). -/
def execClearScreen (s : State) : Result := .next ((s.setFb blankScreen).setDirty true).advance

/-- `DRW Vx,Vy,n` past its range check: the coordinates are the values of `V[x]` and `V[y]`, read before VF is
written (R192). -/
def State.drawSprite (s : State) (x y n : Nibble) : State :=
  let r := blit (s.getV x) (s.getV y) (s.readBytes s.idx.toNat n.toNat) s.fb
  (((s.setFb r.fb).setFlag r.collision).setDirty true).advance

/-- `DRW Vx,Vy,n` (R192): the whole range is checked first; with `n = 0` there is no check. -/
def execDraw (x y n : Nibble) (s : State) : Result := s.withRange n.toNat (fun s => .next (s.drawSprite x y n))

end Sys2Proof.Machine
end

