-- ==== Sys2Proof/Machine/IndexRandom.lean ====
section
/-! DEFINITION. The index register and the random byte (spec/43_index_random.md R180 to R183). -/

namespace Sys2Proof.Machine

/-- `LD I,nnn` (R180). -/
def execSetIndex (nnn : Addr12) (s : State) : Result := .next (s.setIdx (nnn.setWidth 16)).advance

/-- `ADD I,Vx` (R181): `I` keeps the sum modulo 65536; VF is written only when `LEGACY_I_OVERFLOW_FLAG`.
UNVERIFIED (log 20). -/
def execAddIndex (x : Nibble) (s : State) : Result :=
  let sum := s.indexSum x
  let s1 := s.setIdx (sum.setWidth 16)
  .next (if s.params.legacyIOverflowFlag then s1.setFlag (indexExceeds sum) else s1).advance

/-- `RND Vx,kk` (R183): the free input under the mask. -/
def execRandom (x : Nibble) (kk : Byte) (s : State) : Result :=
  .next (s.countDraw.setV x (s.rndInput &&& kk)).advance

end Sys2Proof.Machine
end

