-- ==== Sys2Proof/Machine/KeypadTimers.lean ====
section
/-! DEFINITION. The keypad and timer instructions (spec/45_keypad_timers.md R200 to R207). -/

namespace Sys2Proof.Machine

/-- `SKP Vx` (R201). -/
def execSkipKeyPressed (x : Nibble) (s : State) : Result := .next (s.skipIf (s.key (s.lowNibble x)))

/-- `SKNP Vx` (R202). -/
def execSkipKeyNotPressed (x : Nibble) (s : State) : Result := .next (s.skipIf (!s.key (s.lowNibble x)))

/-- `LD Vx,K` (R203): the smallest pressed key, or the hold class: `pc` and everything else stay as they are, so that
the next `Step` runs the instruction again. UNVERIFIED (log 23): a level, not an edge. -/
def execWaitKey (x : Nibble) (s : State) : Result :=
  match s.firstKey with
  | some k => s.putV x (k.setWidth 8)
  | none => .next s

/-- `LD Vx,DT` (R205). -/
def execGetDelay (x : Nibble) (s : State) : Result := s.putV x s.dt

/-- `LD DT,Vx` (R206). -/
def execSetDelay (x : Nibble) (s : State) : Result := .next (s.setDt (s.getV x)).advance

/-- `LD ST,Vx` (R207). -/
def execSetSound (x : Nibble) (s : State) : Result := .next (s.setSt (s.getV x)).advance

end Sys2Proof.Machine
end

