-- ==== Sys2Proof/Machine/MemoryOps.lean ====
section
/-! DEFINITION. Font lookup, BCD store, register dump and load (spec/46_memory_ops.md R220 to R225). `I` is unchanged
by all but the first (R220). -/

namespace Sys2Proof.Machine

/-- `LD F,Vx` (R221): the address of the glyph of the low four bits, computed and not read from memory. -/
def execFontAddr (x : Nibble) (s : State) : Result :=
  .next (s.setIdx (BitVec.ofNat 16 (Config.fontBase + Config.glyphBytes * (s.lowNibble x).toNat))).advance

/-- `LD B,Vx` (R222). -/
def execStoreBcd (x : Nibble) (s : State) : Result :=
  s.withRange 3 (fun s => .next (s.writeBytes s.idx.toNat (bcdDigits (s.getV x))).advance)

/-- `LD [I],Vx` (R223): `x + 1` registers, `x` the field's value. -/
def execDumpRegs (x : Nibble) (s : State) : Result :=
  s.withRange (x.toNat + 1) (fun s => .next (s.writeBytes s.idx.toNat (s.firstRegs (x.toNat + 1))).advance)

/-- `LD Vx,[I]` (R224). -/
def execLoadRegs (x : Nibble) (s : State) : Result :=
  s.withRange (x.toNat + 1) (fun s => .next (s.loadFirst s.idx.toNat (x.toNat + 1)).advance)

end Sys2Proof.Machine
end

