-- ==== Sys2Proof/Machine/Dispatch.lean ====
section
/-! DEFINITION. The execute stage: one arm for each instruction (spec/30_encoding.md R100). -/

namespace Sys2Proof.Machine

def exec (i : Instr) (s : State) : Host.Outcome State Fault Refusal :=
  match i with
  | .clearScreen => Sys2Proof.Machine.execClearScreen s
  | .ret => Sys2Proof.Machine.execRet s
  | .sys nnn => Sys2Proof.Machine.execSys nnn s
  | .jump nnn => Sys2Proof.Machine.execJump nnn s
  | .call nnn => Sys2Proof.Machine.execCall nnn s
  | .skipEqConst x kk => Sys2Proof.Machine.execSkipEqConst x kk s
  | .skipNeConst x kk => Sys2Proof.Machine.execSkipNeConst x kk s
  | .skipEqReg x y => Sys2Proof.Machine.execSkipEqReg x y s
  | .setConst x kk => Sys2Proof.Machine.execSetConst x kk s
  | .addConst x kk => Sys2Proof.Machine.execAddConst x kk s
  | .assign x y => Sys2Proof.Machine.execAssign x y s
  | .orReg x y => Sys2Proof.Machine.execOrReg x y s
  | .andReg x y => Sys2Proof.Machine.execAndReg x y s
  | .xorReg x y => Sys2Proof.Machine.execXorReg x y s
  | .addReg x y => Sys2Proof.Machine.execAddReg x y s
  | .subReg x y => Sys2Proof.Machine.execSubReg x y s
  | .shiftRight x y => Sys2Proof.Machine.execShiftRight x y s
  | .subReverse x y => Sys2Proof.Machine.execSubReverse x y s
  | .shiftLeft x y => Sys2Proof.Machine.execShiftLeft x y s
  | .skipNeReg x y => Sys2Proof.Machine.execSkipNeReg x y s
  | .setIndex nnn => Sys2Proof.Machine.execSetIndex nnn s
  | .jumpOffset nnn => Sys2Proof.Machine.execJumpOffset nnn s
  | .random x kk => Sys2Proof.Machine.execRandom x kk s
  | .draw x y n => Sys2Proof.Machine.execDraw x y n s
  | .skipKeyPressed x => Sys2Proof.Machine.execSkipKeyPressed x s
  | .skipKeyNotPressed x => Sys2Proof.Machine.execSkipKeyNotPressed x s
  | .getDelay x => Sys2Proof.Machine.execGetDelay x s
  | .waitKey x => Sys2Proof.Machine.execWaitKey x s
  | .setDelay x => Sys2Proof.Machine.execSetDelay x s
  | .setSound x => Sys2Proof.Machine.execSetSound x s
  | .addIndex x => Sys2Proof.Machine.execAddIndex x s
  | .fontAddr x => Sys2Proof.Machine.execFontAddr x s
  | .storeBcd x => Sys2Proof.Machine.execStoreBcd x s
  | .dumpRegs x => Sys2Proof.Machine.execDumpRegs x s
  | .loadRegs x => Sys2Proof.Machine.execLoadRegs x s

end Sys2Proof.Machine
end

