-- ==== Sys2Proof/Machine/Events.lean ====
section
/-! DEFINITION. The events of spec/00_scope.md R7: the CORE's own `Step` (spec/60_exceptions.md R240) and those that
come from outside (R256, R260, R263; spec/70_reset_and_hazards.md R280, R284). -/

namespace Sys2Proof.Machine

open Config (Event)

/-- One whole instruction cycle, where `HALT = 0`: fetch, decode, then the instruction's own rule; the first fault ends
it (R240, R247). -/
def coreStep (s : State) : Result :=
  match fetch s with
  | .error f => raising f s
  | .ok w =>
    match decode w with
    | .error (.unsupportedInstruction raw) => raising (.unsupportedInstruction raw) s
    | .ok i => exec i s

/-- A timer counts down and "floors at zero" (R256). -/
def countDown (t : Byte) : Byte := if t = 0 then 0 else t - 1

/-- `Tick`: both timers count down together (R256). UNVERIFIED (log 27). -/
def tick (s : State) : State := (s.setDt (countDown s.dt)).setSt (countDown s.st)

/-- `KeyEvent(k, p)`: `KEYS[k] <- p` (R260). -/
def keyEvent (k : Nibble) (p : Bool) (s : State) : State := s.setKey k p

/-- `PresentAck`: `DIRTY <- 0` (R263). UNVERIFIED (log 26). -/
def presentAck (s : State) : State := s.setDirty false

/-- `Reset`: every piece of the machine's state at its reset value (R280). The parameters stay, and so do the three
fields of the model's own: what is still to come from outside, and how often `RND` was sampled (log 7). -/
def resetEvent (s : State) : State :=
  { State.resetWith s.params with draws := s.draws, agenda := s.agenda, supply := s.supply }

/-- `LoadImage(bytes)` of at most 3584 bytes: `Reset`, then the image verbatim from 0x200 on (R284).
UNVERIFIED (log 28). -/
def loadImage (bytes : List Byte) (s : State) : State := (resetEvent s).writeBytes Config.progBase bytes

/-- The CORE with no event due: it steps while `HALT = 0`; else nothing can move (R7, R248). -/
def runCore (s : State) : Result := if s.halt then .fault .halted else coreStep s

/-- One event (R7). A `Step` that is due while `HALT = 1` is not enabled and changes nothing (R248; log 5). -/
def deliver (e : Event) (s : State) : Result :=
  match e with
  | .step => if s.halt then .next s else coreStep s
  | .tick => .next (tick s)
  | .keyEvent k p => .next (keyEvent k p s)
  | .presentAck => .next (presentAck s)
  | .reset => .next (resetEvent s)
  | .loadImage bytes => if bytes.length ≤ Config.maxImage then .next (loadImage bytes s) else .refused .imageTooLong

/-- The next event of the machine: the one that is due, or the CORE's own `Step` where none is. -/
def nextEvent (s : State) : Result :=
  match s.due with
  | none => runCore s
  | some e => deliver e s.consume

/-- `s` with the two bytes of the word `w` where the next instruction is fetched, no event due and `HALT = 0`, so
that the next step runs that instruction. Where `pc > 0xFFE` no instruction can be fetched and `s` is unchanged. -/
def placeWord (s : State) (w : Word) : State :=
  if 0xFFE < s.pc.toNat then s
  else { s.writeBytes s.pc.toNat (bytesOfWord w) with halt := false, fault := .none, agenda := [], supply := none }

end Sys2Proof.Machine
end

