-- ==== Sys2Proof/Machine/Step.lean ====
section
/-! DEFINITION. One step of the machine. -/

namespace Sys2Proof.Machine

/-- One step: the next atomic event (spec/00_scope.md R7), which is the CORE's own instruction cycle
(spec/60_exceptions.md R240) unless another event is due (log 2). -/
def step (s : State) : Host.Outcome State Fault Refusal := nextEvent s

/-- `s` with the instruction whose bits are `w`, numbered as spec/opcode_table.json numbers them, where `step` fetches
its next instruction (log 9). -/
def State.withFetchWord (s : State) (nbits w : Nat) : State := placeWord s (BitVec.ofNat 16 (w % 2 ^ nbits))

end Sys2Proof.Machine
end

