-- ==== Sys2Proof/Machine/Assembly.lean ====
section
/-! DEFINITION. The assembly lines of spec/30_encoding.md R107, R108: a mnemonic and its operands, the destination
first. Not part of a step. UNVERIFIED (log 32): mnemonics and operand forms are the spec's choice D22. -/

namespace Sys2Proof.Machine

/-- The 20 mnemonics of R100 (G6). -/
inductive Mnemonic where
  | cls | ret | sys | jp | call | se | sne | ld | add | or | and | xor | sub | shr | subn | shl | rnd | drw | skp | sknp
  deriving DecidableEq, Repr

/-- The operand forms of R107. -/
inductive Operand where
  /-- `Vx`. -/
  | v (x : Nibble)
  /-- The number `kk`. -/
  | byte (kk : Byte)
  /-- The number `n`. -/
  | count (n : Nibble)
  /-- The number `nnn`. -/
  | addr (nnn : Addr12)
  /-- `I`, the index register. -/
  | index
  /-- `DT`. -/
  | delay
  /-- `ST`. -/
  | sound
  /-- `K`, a key press. -/
  | key
  /-- `F`, font address of. -/
  | font
  /-- `B`, BCD of. -/
  | bcd
  /-- `[I]`, memory at `I`. -/
  | atIndex
  deriving DecidableEq, Repr

/-- One assembly line. -/
structure AsmLine where
  mnemonic : Mnemonic
  operands : List Operand
  deriving DecidableEq, Repr

/-- The operands of a shift: the optional `Vy` is left out where `y = 0` (R107). -/
def shiftOperands (x y : Nibble) : List Operand := if y = 0 then [.v x] else [.v x, .v y]

/-- The line of an instruction (R100, R107). -/
def asmOf : Instr → AsmLine
  | .clearScreen => ⟨.cls, []⟩
  | .ret => ⟨.ret, []⟩
  | .sys nnn => ⟨.sys, [.addr nnn]⟩
  | .jump nnn => ⟨.jp, [.addr nnn]⟩
  | .call nnn => ⟨.call, [.addr nnn]⟩
  | .skipEqConst x kk => ⟨.se, [.v x, .byte kk]⟩
  | .skipNeConst x kk => ⟨.sne, [.v x, .byte kk]⟩
  | .skipEqReg x y => ⟨.se, [.v x, .v y]⟩
  | .setConst x kk => ⟨.ld, [.v x, .byte kk]⟩
  | .addConst x kk => ⟨.add, [.v x, .byte kk]⟩
  | .assign x y => ⟨.ld, [.v x, .v y]⟩
  | .orReg x y => ⟨.or, [.v x, .v y]⟩
  | .andReg x y => ⟨.and, [.v x, .v y]⟩
  | .xorReg x y => ⟨.xor, [.v x, .v y]⟩
  | .addReg x y => ⟨.add, [.v x, .v y]⟩
  | .subReg x y => ⟨.sub, [.v x, .v y]⟩
  | .shiftRight x y => ⟨.shr, shiftOperands x y⟩
  | .subReverse x y => ⟨.subn, [.v x, .v y]⟩
  | .shiftLeft x y => ⟨.shl, shiftOperands x y⟩
  | .skipNeReg x y => ⟨.sne, [.v x, .v y]⟩
  | .setIndex nnn => ⟨.ld, [.index, .addr nnn]⟩
  | .jumpOffset nnn => ⟨.jp, [.v 0, .addr nnn]⟩
  | .random x kk => ⟨.rnd, [.v x, .byte kk]⟩
  | .draw x y n => ⟨.drw, [.v x, .v y, .count n]⟩
  | .skipKeyPressed x => ⟨.skp, [.v x]⟩
  | .skipKeyNotPressed x => ⟨.sknp, [.v x]⟩
  | .getDelay x => ⟨.ld, [.v x, .delay]⟩
  | .waitKey x => ⟨.ld, [.v x, .key]⟩
  | .setDelay x => ⟨.ld, [.delay, .v x]⟩
  | .setSound x => ⟨.ld, [.sound, .v x]⟩
  | .addIndex x => ⟨.add, [.index, .v x]⟩
  | .fontAddr x => ⟨.ld, [.font, .v x]⟩
  | .storeBcd x => ⟨.ld, [.bcd, .v x]⟩
  | .dumpRegs x => ⟨.ld, [.atIndex, .v x]⟩
  | .loadRegs x => ⟨.ld, [.v x, .atIndex]⟩

/-- `LD`: the mnemonic with eleven operand shapes (R108). -/
def assembleLd : List Operand → Option Instr
  | [.v x, .byte kk] => some (.setConst x kk)
  | [.v x, .v y] => some (.assign x y)
  | [.index, .addr nnn] => some (.setIndex nnn)
  | [.v x, .delay] => some (.getDelay x)
  | [.v x, .key] => some (.waitKey x)
  | [.delay, .v x] => some (.setDelay x)
  | [.sound, .v x] => some (.setSound x)
  | [.font, .v x] => some (.fontAddr x)
  | [.bcd, .v x] => some (.storeBcd x)
  | [.atIndex, .v x] => some (.dumpRegs x)
  | [.v x, .atIndex] => some (.loadRegs x)
  | _ => none

/-- The two operand shapes of `SHR` and `SHL`: when `Vy` is omitted, `y = 0` (R107). -/
def assembleShift (f : Nibble → Nibble → Instr) : List Operand → Option Instr
  | [.v x] => some (f x 0)
  | [.v x, .v y] => some (f x y)
  | _ => none

/-- The shape of a two-register instruction. -/
def assembleXy (f : Nibble → Nibble → Instr) : List Operand → Option Instr
  | [.v x, .v y] => some (f x y)
  | _ => none

/-- The shapes of `SE` and `SNE`. -/
def assembleSkip (f : Nibble → Byte → Instr) (g : Nibble → Nibble → Instr) : List Operand → Option Instr
  | [.v x, .byte kk] => some (f x kk)
  | [.v x, .v y] => some (g x y)
  | _ => none

/-- The shape of an instruction with one register. -/
def assembleX (f : Nibble → Instr) : List Operand → Option Instr
  | [.v x] => some (f x)
  | _ => none

/-- The instruction a line stands for (R107, R108). -/
def assemble (l : AsmLine) : Option Instr :=
  match l.mnemonic with
  | .cls => if l.operands = [] then some .clearScreen else none
  | .ret => if l.operands = [] then some .ret else none
  | .sys => match l.operands with
    | [.addr nnn] => some (.sys nnn)
    | _ => none
  | .jp => match l.operands with
    | [.addr nnn] => some (.jump nnn)
    | [.v x, .addr nnn] => if x = 0 then some (.jumpOffset nnn) else none
    | _ => none
  | .call => match l.operands with
    | [.addr nnn] => some (.call nnn)
    | _ => none
  | .se => assembleSkip .skipEqConst .skipEqReg l.operands
  | .sne => assembleSkip .skipNeConst .skipNeReg l.operands
  | .ld => assembleLd l.operands
  | .add => match l.operands with
    | [.v x, .byte kk] => some (.addConst x kk)
    | [.v x, .v y] => some (.addReg x y)
    | [.index, .v x] => some (.addIndex x)
    | _ => none
  | .or => assembleXy .orReg l.operands
  | .and => assembleXy .andReg l.operands
  | .xor => assembleXy .xorReg l.operands
  | .sub => assembleXy .subReg l.operands
  | .shr => assembleShift .shiftRight l.operands
  | .subn => assembleXy .subReverse l.operands
  | .shl => assembleShift .shiftLeft l.operands
  | .rnd => match l.operands with
    | [.v x, .byte kk] => some (.random x kk)
    | _ => none
  | .drw => match l.operands with
    | [.v x, .v y, .count n] => some (.draw x y n)
    | _ => none
  | .skp => assembleX .skipKeyPressed l.operands
  | .sknp => assembleX .skipKeyNotPressed l.operands

end Sys2Proof.Machine
end

