-- ==== Sys2Proof/Machine/Outputs.lean ====
section
/-! DEFINITION. What the outside can read (spec/10_state.md R40, R41, R46; spec/60_exceptions.md R241). The outputs
`FB`, `DIRTY`, `HALT` and `FAULT` are the fields of State themselves. -/

namespace Sys2Proof.Machine

/-- The output `SOUND`: 1 exactly when `ST != 0` (R41). -/
def State.sound (s : State) : Bool := s.st != 0

/-- The numeric code of the `FAULT` output (R241). UNVERIFIED (log 24): the codes are the spec's own (D16). -/
def FaultRecord.code : FaultRecord → Nat
  | .none => 0
  | .unsupportedInstruction _ => 1
  | .stackOverflow => 2
  | .stackUnderflow => 3
  | .outOfBoundsAccess _ => 4

/-- The fields a save collaborator reads, in the order of R46. There is no snapshot operation in the hardware, and no
binary form of the fields is given (R5, R46; log 29). -/
structure SnapshotFields where
  v : Vector Byte 16
  idx : Word
  pc : Word
  sp : Fin 17
  dt : Byte
  st : Byte
  memory : List Byte
  stack : Vector Word 16
  deriving DecidableEq, Repr

/-- The snapshot field list of a state (R46). -/
def State.snapshotFields (s : State) : SnapshotFields where
  v := s.v
  idx := s.idx
  pc := s.pc
  sp := s.sp
  dt := s.dt
  st := s.st
  memory := s.readBytes 0 Config.memSize
  stack := s.stack

end Sys2Proof.Machine
end

