-- ==== Sys2Proof/Safety.lean ====
section
/-! DEFINITION. What statements about the machine use: a state that has not gone wrong, the parts of the state for
frames, the invariant, and the pixels of a sprite. -/

namespace Sys2Proof.Machine

/-! ## Running and finished -/

/-- Not gone wrong: "a model should treat a state with `HALT = 1` as gone wrong" (spec/60_exceptions.md R248). -/
def State.running (s : State) : Prop := s.halt = false

/-- The convention for a finished program that spec/70_reset_and_hazards.md R298 allows: the instruction at `pc` is
`JP pc`. DESIGN CHOICE (log 30): the hardware has no end of a run, and keeps stepping. -/
def State.finished (s : State) : Prop :=
  ∃ w nnn, fetch s = .ok w ∧ decode w = .ok (.jump nnn) ∧ nnn.setWidth 16 = s.pc

/-! ## Whose turn it is (spec/00_scope.md R7, spec/60_exceptions.md R257) -/

/-- The CORE steps next, from `u`: no event is due, or its own `Step` is the one that is. -/
def CoreTurn (s u : State) : Prop := (s.due = none ∧ u = s) ∨ (s.due = some .step ∧ u = s.consume)

/-- All that may be assumed of an endless order of events: "in an endless run both kinds of event keep occurring"
(R257), `Step`s and `Tick`s. A claim that needs it takes it as a hypothesis (log 33). -/
def FairSchedule : Prop := ∀ n, (∃ k, n ≤ k ∧ Config.schedule k = .step) ∧ ∃ k, n ≤ k ∧ Config.schedule k = .tick

/-! ## Frames -/

/-- The parts of the state a frame speaks of (spec/10_state.md R34, R39). -/
inductive Part where
  | regs
  | index
  | pc
  | stack
  | timers
  | memory
  | screen
  | dirty
  | keys
  | latches
  | params
  | draws
  | agenda
  | supply
  deriving DecidableEq, Repr

/-- Part `p` holds the same in both states. Memory is compared byte by byte at every address. -/
def Same (p : Part) (s t : State) : Prop :=
  match p with
  | .regs => ∀ r, t.getV r = s.getV r
  | .index => t.idx = s.idx
  | .pc => t.pc = s.pc
  | .stack => t.sp = s.sp ∧ ∀ j : Fin 16, t.stack[j] = s.stack[j]
  | .timers => t.dt = s.dt ∧ t.st = s.st
  | .memory => ∀ a, t.readByte a = s.readByte a
  | .screen => ∀ r c, pixel t.fb r c = pixel s.fb r c
  | .dirty => t.dirty = s.dirty
  | .keys => ∀ k, t.key k = s.key k
  | .latches => t.halt = s.halt ∧ t.fault = s.fault
  | .params => t.params = s.params
  | .draws => t.draws = s.draws
  | .agenda => t.agenda = s.agenda
  | .supply => t.supply = s.supply

/-- Nothing outside the listed parts differs. -/
def SameBut (ps : List Part) (s t : State) : Prop := ∀ p, p ∉ ps → Same p s t

/-- Every general register but `x` is unchanged. -/
def SameRegsBut (x : Nibble) (s t : State) : Prop := ∀ r, r ≠ x → t.getV r = s.getV r

/-- Every general register but `x` and VF is unchanged. -/
def SameRegsButFlagAnd (x : Nibble) (s t : State) : Prop := ∀ r, r ≠ x → r ≠ vf → t.getV r = s.getV r

/-- The fault entry of spec/60_exceptions.md R246, seen from outside: `HALT` and `FAULT` are set and nothing else
differs. -/
def Faulted (f : FaultRecord) (s t : State) : Prop := t.halt = true ∧ t.fault = f ∧ SameBut [.latches] s t

/-! ## The invariant (spec/10_state.md R43, spec/40_control_flow.md R144) -/

/-- Memory is in its canonical form; `HALT = 1` exactly when `FAULT` is not `None`; every value on the call stack is
an address an instruction can be fetched from. `SP <= 16` and the one-bit ranges hold by type. -/
structure State.Inv (s : State) : Prop where
  memWf : Memory.wf s.params s.mem = true
  haltIff : s.halt = true ↔ s.fault ≠ .none
  stackFetchable : ∀ j : Fin 16, s.stack[j].toNat ≤ 0xFFE

/-! ## Sprites (spec/44_display.md R192) -/

/-- Pixel `(r, c)` lies under a set bit of the `n`-row sprite at `I` in `s`, drawn at `(cx, cy)`. -/
def SpriteCovers (s : State) (cx cy : Byte) (n : Nibble) (r : Fin 32) (c : Fin 64) : Prop :=
  ∃ row col : Nat, row < n.toNat ∧ col < 8 ∧ (s.readByte (s.idx.toNat + row)).getLsbD (7 - col) = true ∧
    (cy.toNat + row) % 32 = r.val ∧ (cx.toNat + col) % 64 = c.val

/-! ## Which registers an instruction writes (spec/10_state.md R21, R23) -/

/-- The instructions that write VF as a side effect (R23). -/
def flagWriter (p : Config.Params) : Instr → Bool
  | .addReg _ _ | .subReg _ _ | .subReverse _ _ | .shiftRight _ _ | .shiftLeft _ _ | .draw _ _ _ => true
  | .addIndex _ => p.legacyIOverflowFlag
  | .clearScreen | .ret | .sys _ | .jump _ | .call _ | .skipEqConst _ _ | .skipNeConst _ _ | .skipEqReg _ _
  | .setConst _ _ | .addConst _ _ | .assign _ _ | .orReg _ _ | .andReg _ _ | .xorReg _ _ | .skipNeReg _ _
  | .setIndex _ | .jumpOffset _ | .random _ _ | .skipKeyPressed _ | .skipKeyNotPressed _ | .getDelay _
  | .waitKey _ | .setDelay _ | .setSound _ | .fontAddr _ | .storeBcd _ | .dumpRegs _ | .loadRegs _ => false

/-- Whether `V[r]` is a destination the instruction names: `V[x]` of R21's list, and `V[0]` to `V[x]` of
`LD Vx,[I]`. -/
def namesDestination (r : Nibble) : Instr → Bool
  | .setConst x _ | .addConst x _ | .random x _ | .assign x _ | .orReg x _ | .andReg x _ | .xorReg x _
  | .addReg x _ | .subReg x _ | .shiftRight x _ | .subReverse x _ | .shiftLeft x _ | .getDelay x
  | .waitKey x => r == x
  | .loadRegs x => decide (r.toNat ≤ x.toNat)
  | .clearScreen | .ret | .sys _ | .jump _ | .call _ | .skipEqConst _ _ | .skipNeConst _ _ | .skipEqReg _ _
  | .skipNeReg _ _ | .setIndex _ | .jumpOffset _ | .draw _ _ _ | .skipKeyPressed _ | .skipKeyNotPressed _
  | .setDelay _ | .setSound _ | .addIndex _ | .fontAddr _ | .storeBcd _ | .dumpRegs _ => false

/-! ## The reset table (spec/10_state.md R38, R39) -/

/-- The rows of R39 for everything but memory, of a machine built with `p`. -/
structure ResetButMemory (p : Config.Params) (t : State) : Prop where
  regs : ∀ r, t.getV r = 0
  index : t.idx = 0
  pc : t.pc = p.resetPc
  sp : t.sp.val = 0
  stack : ∀ j : Fin 16, t.stack[j] = 0
  timers : t.dt = 0 ∧ t.st = 0
  screen : ∀ r c, pixel t.fb r c = false
  dirty : t.dirty = false
  keys : ∀ k, t.key k = false
  latches : t.halt = false ∧ t.fault = .none
  params : t.params = p

/-- What address `a` holds after reset (R38, R39): byte `j` of glyph `d` at `5 * d + j`, and zero from 0x050 on. -/
def HoldsResetByte (p : Config.Params) (t : State) (a : Nat) : Prop :=
  (∀ (d : Fin 16) (j : Fin 5), a = 5 * d.val + j.val → t.readByte a = p.fontTable[d][j]) ∧
  (0x050 ≤ a → t.readByte a = 0)

end Sys2Proof.Machine
end

