-- ==== Sys2Proof/Certificates/Slice0/Obligations.lean ====
section
/-! DEFINITION. The statements about the machine, made from the numbered rules of spec/. A docstring names the rules;
"the spec's decision D<n>" is spec/92_eei_decisions.md's own choice, followed by the model. -/

open Sys2Proof Sys2Proof.Machine

/-! ## Encoding (spec/30_encoding.md) -/

/-- R104, R105 (opcode numbers: log 13): decoding the word of a well-formed instruction gives it back, for every
operand. -/
def Obligations.DecodeInvertsEncode : Prop :=
  ∀ i : Instr, i.wellFormed = true → decode (encode i) = .ok i

/-- R104 (log 13): encoding what a legal word decodes to gives the word back, and only well-formed instructions are
decoded. -/
def Obligations.EncodeInvertsDecode : Prop :=
  ∀ (w : Word) (i : Instr), decode w = .ok i → encode i = w ∧ i.wellFormed = true

/-- R98, R100, R101 (log 13): the decode algorithm is the ordered match over the map's (mask, match) rows. -/
def Obligations.DecodeFollowsOpcodeMap : Prop :=
  ∀ w : Word, decode w = decodeByMap w

/-- R100 (log 13): the map has 35 rows; two of them can select one word exactly when they are a literal of family 0 and
`SYS`. -/
def Obligations.OnlyFamilyZeroRowsOverlap : Prop :=
  opcodeMap.length = 35 ∧
  ∀ (j k : Nat) (hj : j < opcodeMap.length) (hk : k < opcodeMap.length), j < k →
    ((∃ w, opcodeMap[j].selects w = true ∧ opcodeMap[k].selects w = true) ↔ (j < 2 ∧ k = 2))

/-- R102 (log 13): the five sets of illegal words, and the record's `raw` is the word itself. -/
def Obligations.IllegalWordsAreExactly : Prop :=
  (∀ (w raw : Word), decode w = .error (.unsupportedInstruction raw) → raw = w) ∧
  ∀ w : Word, decode w = .error (.unsupportedInstruction w) ↔
    ((fieldOp w = 0x5 ∧ fieldN w ≠ 0x0) ∨
     (fieldOp w = 0x8 ∧ fieldN w ∈ [0x8#4, 0x9#4, 0xA#4, 0xB#4, 0xC#4, 0xD#4, 0xF#4]) ∨
     (fieldOp w = 0x9 ∧ fieldN w ≠ 0x0) ∨
     (fieldOp w = 0xE ∧ fieldKk w ∉ [0x9E#8, 0xA1#8]) ∨
     (fieldOp w = 0xF ∧
       fieldKk w ∉ [0x07#8, 0x0A#8, 0x15#8, 0x18#8, 0x1E#8, 0x29#8, 0x33#8, 0x55#8, 0x65#8]))

/-- R106 and the vectors of spec/95_test_vectors.md group T-DEC (log 13): one word of each family. -/
def Obligations.SpecWordsDecode : Prop :=
  decode 0x3E45 = .ok (.skipEqConst 0xE 0x45) ∧ decode 0x6005 = .ok (.setConst 0x0 0x05) ∧
  decode 0x7003 = .ok (.addConst 0x0 0x03) ∧ decode 0x00E0 = .ok .clearScreen ∧ decode 0x00EE = .ok .ret ∧
  decode 0x0FEE = .ok (.sys 0xFEE) ∧ decode 0x1ABC = .ok (.jump 0xABC) ∧ decode 0x8AB7 = .ok (.subReverse 0xA 0xB) ∧
  decode 0xA2F0 = .ok (.setIndex 0x2F0) ∧ decode 0xC30F = .ok (.random 0x3 0x0F) ∧
  decode 0xD125 = .ok (.draw 0x1 0x2 0x5) ∧ decode 0xE4A1 = .ok (.skipKeyNotPressed 0x4) ∧
  decode 0xFF55 = .ok (.dumpRegs 0xF) ∧ decode 0x8128 = .error (.unsupportedInstruction 0x8128)

/-- R107, R108: assembling the line of an instruction gives the instruction back, so no two instructions share a line;
a shift's `Vy` may be left out and is then 0. -/
def Obligations.AssembleInvertsAsmOf : Prop :=
  (∀ i : Instr, assemble (asmOf i) = some i) ∧
  (∀ x : Nibble, assemble ⟨.shr, [.v x]⟩ = some (.shiftRight x 0) ∧ assemble ⟨.shl, [.v x]⟩ = some (.shiftLeft x 0))

/-! ## Control flow (spec/40_control_flow.md) -/

/-- R141, by `SYS_POLICY` (the spec's decision D7; logs 1, 17): a fault whose record is the word `0x0 ++ nnn` (the
fault entry is R246, D16, D17; log 24), or the very effect of `CALL nnn`, or only the advance. -/
def Obligations.SysFollowsPolicy : Prop :=
  ∀ (s : State) (nnn : Addr12),
    (s.params.sysPolicy = .fault → ∃ t, exec (.sys nnn) s = .next t ∧
      Faulted (.unsupportedInstruction (BitVec.ofNat 16 nnn.toNat)) s t) ∧
    (s.params.sysPolicy = .call → exec (.sys nnn) s = exec (.call nnn) s) ∧
    (s.params.sysPolicy = .nop → ∃ t, exec (.sys nnn) s = .next t ∧ t.pc = s.pc + 2 ∧ SameBut [.pc] s t)

/-- R142: `JP` sets `pc` to `nnn` and changes nothing else; a jump to 0xFFF faults at the next fetch, and that fault
leaves the rest of the state as it is (R246, the spec's decisions D16, D17; log 24). -/
def Obligations.JumpSetsPc : Prop :=
  ∀ (s : State) (nnn : Addr12), ∃ t, exec (.jump nnn) s = .next t ∧ t.pc.toNat = nnn.toNat ∧ SameBut [.pc] s t ∧
    (nnn = 0xFFF → ∃ u, coreStep t = .next u ∧ Faulted (.outOfBoundsAccess 0x1000) t u)

/-- R143 below the full stack (the spec's decision D5: the saved value is the address of the `CALL`; log 16). -/
def Obligations.CallPushesAndJumps : Prop :=
  ∀ (s : State) (nnn : Addr12), s.sp.val < 16 → ∃ t, exec (.call nnn) s = .next t ∧
    t.sp.val = s.sp.val + 1 ∧ (∀ j : Fin 16, t.stack[j] = if j.val = s.sp.val then s.pc else s.stack[j]) ∧
    t.pc.toNat = nnn.toNat ∧ SameBut [.pc, .stack] s t

/-- R243: a `CALL` with `SP = 16` raises `StackOverflow` and leaves `STACK`, `SP` and `pc`; that `HALT` latches and all
other state stays too is R246, the spec's decisions D16, D17 (log 24). -/
def Obligations.CallOnFullStackFaults : Prop :=
  ∀ (s : State) (nnn : Addr12), s.sp.val = 16 → ∃ t, exec (.call nnn) s = .next t ∧ Faulted .stackOverflow s t

/-- R144 above the empty stack (conflict C1 and the spec's decision D5; log 16): the saved value plus 2; every slot
keeps its value. -/
def Obligations.ReturnPopsAndAdvances : Prop :=
  ∀ (s : State) (j : Fin 16), s.sp.val = j.val + 1 → ∃ t, exec .ret s = .next t ∧
    t.sp.val = j.val ∧ (∀ k : Fin 16, t.stack[k] = s.stack[k]) ∧ t.pc = s.stack[j] + 2 ∧ SameBut [.pc, .stack] s t

/-- R244: a `RET` with `SP = 0` raises `StackUnderflow` and leaves `SP` and `pc`; that `HALT` latches and all other
state stays too is R246, the spec's decisions D16, D17 (log 24). -/
def Obligations.ReturnOnEmptyStackFaults : Prop :=
  ∀ s : State, s.sp.val = 0 → ∃ t, exec .ret s = .next t ∧ Faulted .stackUnderflow s t

/-- R143, R144 together (C1, D5; log 16): a `RET` in any state that has the call stack the `CALL` left resumes at the
instruction after the `CALL`, with the stack depth the `CALL` found. -/
def Obligations.ReturnResumesAfterCall : Prop :=
  ∀ (s t u : State) (nnn : Addr12), s.sp.val < 16 → exec (.call nnn) s = .next t → Same .stack t u →
    ∃ v, exec .ret u = .next v ∧ v.pc = s.pc + 2 ∧ v.sp = s.sp ∧
      ∀ j : Fin 16, j.val < s.sp.val → v.stack[j] = s.stack[j]

/-- R145 (the spec's decision D8, general knowledge G5; log 13): the sum is neither wrapped nor masked. -/
def Obligations.JumpOffsetAddsV0 : Prop :=
  ∀ (s : State) (nnn : Addr12), ∃ t, exec (.jumpOffset nnn) s = .next t ∧
    t.pc.toNat = nnn.toNat + (s.getV 0).toNat ∧ t.pc.toNat ≤ 0x10FE ∧ SameBut [.pc] s t

/-- R146, R147: the skips on a constant, whatever the skipped word is; a skip taken at 0xFFC faults at the next fetch,
with the address of R64 and the rest of the state unchanged (R246, the spec's decisions D16, D17; log 24). -/
def Obligations.ConstantSkips : Prop :=
  ∀ (s : State) (x : Nibble) (kk : Byte),
    (∃ t, exec (.skipEqConst x kk) s = .next t ∧ t.pc = (if s.getV x = kk then s.pc + 4 else s.pc + 2) ∧
      SameBut [.pc] s t ∧
      (s.pc = 0xFFC → s.getV x = kk → ∃ u, coreStep t = .next u ∧ Faulted (.outOfBoundsAccess 0x1000) t u)) ∧
    (∃ t, exec (.skipNeConst x kk) s = .next t ∧ t.pc = (if s.getV x ≠ kk then s.pc + 4 else s.pc + 2) ∧
      SameBut [.pc] s t ∧
      (s.pc = 0xFFC → s.getV x ≠ kk → ∃ u, coreStep t = .next u ∧ Faulted (.outOfBoundsAccess 0x1000) t u))

/-- R148, R149: the skips on two registers. -/
def Obligations.RegisterSkips : Prop :=
  ∀ (s : State) (x y : Nibble),
    (∃ t, exec (.skipEqReg x y) s = .next t ∧ t.pc = (if s.getV x = s.getV y then s.pc + 4 else s.pc + 2) ∧
      SameBut [.pc] s t) ∧
    (∃ t, exec (.skipNeReg x y) s = .next t ∧ t.pc = (if s.getV x ≠ s.getV y then s.pc + 4 else s.pc + 2) ∧
      SameBut [.pc] s t)

/-! ## Constants and logic (spec/41_const_and_logic.md) -/

/-- R160, R161: set and increment, the sum modulo 256, no flag effect. -/
def Obligations.ConstantLoadAndAdd : Prop :=
  ∀ (s : State) (x : Nibble) (kk : Byte),
    (∃ t, exec (.setConst x kk) s = .next t ∧ t.getV x = kk ∧ SameRegsBut x s t ∧ t.pc = s.pc + 2 ∧
      SameBut [.regs, .pc] s t) ∧
    (∃ t, exec (.addConst x kk) s = .next t ∧ (t.getV x).toNat = ((s.getV x).toNat + kk.toNat) % 256 ∧
      SameRegsBut x s t ∧ t.pc = s.pc + 2 ∧ SameBut [.regs, .pc] s t)

/-- R162 to R165: assign and the bitwise operations, bit by bit, no flag effect. -/
def Obligations.AssignAndBitwiseOps : Prop :=
  ∀ (s : State) (x y : Nibble) (i : Instr) (f : Bool → Bool → Bool),
    (i = .assign x y ∧ f = fun _ b => b) ∨ (i = .orReg x y ∧ f = fun a b => a || b) ∨
    (i = .andReg x y ∧ f = fun a b => a && b) ∨ (i = .xorReg x y ∧ f = fun a b => a != b) →
    ∃ t, exec i s = .next t ∧
      (∀ k, k < 8 → (t.getV x).getLsbD k = f ((s.getV x).getLsbD k) ((s.getV y).getLsbD k)) ∧
      SameRegsBut x s t ∧ t.pc = s.pc + 2 ∧ SameBut [.regs, .pc] s t

/-! ## Arithmetic with flags, and shifts (spec/42_arith_flags_shifts.md) -/

/-- R171: VF gets the carry, `V[x]` the wrapped sum. That both operands are read first, so that with `x = 15` the sum is
what VF holds, is R170, the spec's decision D9 (log 18). -/
def Obligations.AddSetsCarry : Prop :=
  ∀ (s : State) (x y : Nibble), ∃ t, exec (.addReg x y) s = .next t ∧
    (t.getV x).toNat = ((s.getV x).toNat + (s.getV y).toNat) % 256 ∧
    (x ≠ vf → t.getV vf = if 256 ≤ (s.getV x).toNat + (s.getV y).toNat then 1 else 0) ∧
    SameRegsButFlagAnd x s t ∧ t.pc = s.pc + 2 ∧ SameBut [.regs, .pc] s t

/-- R172, R173: the flag of both subtractions is NOT borrow, 1 on equality; the difference is taken modulo 256. With
`x = 15` VF holds the difference, and with `y = 15` the old VF is read: R170, the spec's decision D9 (log 18). -/
def Obligations.SubtractionsSetNotBorrow : Prop :=
  ∀ (s : State) (x y : Nibble),
    (∃ t, exec (.subReg x y) s = .next t ∧
      (t.getV x).toNat = ((s.getV x).toNat + 256 - (s.getV y).toNat) % 256 ∧
      (x ≠ vf → t.getV vf = if (s.getV x).toNat < (s.getV y).toNat then 0 else 1) ∧
      SameRegsButFlagAnd x s t ∧ t.pc = s.pc + 2 ∧ SameBut [.regs, .pc] s t) ∧
    (∃ t, exec (.subReverse x y) s = .next t ∧
      (t.getV x).toNat = ((s.getV y).toNat + 256 - (s.getV x).toNat) % 256 ∧
      (x ≠ vf → t.getV vf = if (s.getV y).toNat < (s.getV x).toNat then 0 else 1) ∧
      SameRegsButFlagAnd x s t ∧ t.pc = s.pc + 2 ∧ SameBut [.regs, .pc] s t)

/-- R174, R175, under both settings of `SHIFT_USES_VY` (the spec's decision D10; logs 1, 19): a logical shift by one,
the bit shifted out goes to VF, and with `x = 15` the shifted value is what VF holds (R170, the spec's decision D9;
log 18). -/
def Obligations.ShiftsMoveBitToFlag : Prop :=
  ∀ (s : State) (x y : Nibble) (v : Byte), v = (if s.params.shiftUsesVy = true then s.getV y else s.getV x) →
    (∃ t, exec (.shiftRight x y) s = .next t ∧ (t.getV x).toNat = v.toNat / 2 ∧
      (x ≠ vf → (t.getV vf).toNat = v.toNat % 2) ∧
      SameRegsButFlagAnd x s t ∧ t.pc = s.pc + 2 ∧ SameBut [.regs, .pc] s t) ∧
    (∃ t, exec (.shiftLeft x y) s = .next t ∧ (t.getV x).toNat = v.toNat * 2 % 256 ∧
      (x ≠ vf → (t.getV vf).toNat = v.toNat / 128) ∧
      SameRegsButFlagAnd x s t ∧ t.pc = s.pc + 2 ∧ SameBut [.regs, .pc] s t)

/-! ## Index register and random (spec/43_index_random.md) -/

/-- R180: `I` becomes `nnn`, which is inside memory. -/
def Obligations.SetIndexLoadsAddress : Prop :=
  ∀ (s : State) (nnn : Addr12), ∃ t, exec (.setIndex nnn) s = .next t ∧ t.idx.toNat = nnn.toNat ∧
    t.idx.toNat ≤ 0xFFF ∧ t.pc = s.pc + 2 ∧ SameBut [.index, .pc] s t

/-- R181 (the spec's decision D11; logs 1, 20): `I` keeps the sum modulo 65536 and never faults; VF is written only in
legacy mode, 1 when the unwrapped sum exceeds 0xFFF, else 0. -/
def Obligations.AddIndexWrapsAt65536 : Prop :=
  ∀ (s : State) (x : Nibble), ∃ t, exec (.addIndex x) s = .next t ∧
    t.idx.toNat = (s.idx.toNat + (s.getV x).toNat) % 65536 ∧
    t.getV vf = (if s.params.legacyIOverflowFlag = true then
      (if 0xFFF < s.idx.toNat + (s.getV x).toNat then 1 else 0) else s.getV vf) ∧
    SameRegsBut vf s t ∧ t.pc = s.pc + 2 ∧ SameBut [.regs, .index, .pc] s t

/-- R183, by the model's own count of samplings (log 3): the free byte of this sampling under the mask, whatever the
byte is, and the count advanced; the result never has a bit that `kk` lacks. -/
def Obligations.RandomByteUnderMask : Prop :=
  ∀ (s : State) (x : Nibble) (kk : Byte), ∃ t, exec (.random x kk) s = .next t ∧
    t.getV x = Config.rnd s.draws &&& kk ∧ (∀ k, kk.getLsbD k = false → (t.getV x).getLsbD k = false) ∧
    t.draws = s.draws + 1 ∧ SameRegsBut x s t ∧ t.pc = s.pc + 2 ∧ SameBut [.regs, .pc, .draws] s t

/-! ## Display (spec/44_display.md) -/

/-- R191: every pixel 0, `DIRTY` set, VF and everything else unchanged. -/
def Obligations.ClearScreenBlanksAndMarksDirty : Prop :=
  ∀ s : State, ∃ t, exec .clearScreen s = .next t ∧ (∀ r c, pixel t.fb r c = false) ∧ t.dirty = true ∧
    t.pc = s.pc + 2 ∧ SameBut [.screen, .dirty, .pc] s t

/-- R192, R193 (a) and (d), inside memory or with `n = 0` (sprite geometry is the spec's decision D13; log 21): exactly
the pixels under set sprite bits are toggled, with both coordinates wrapped; VF is 1 when one of them was set and 0
otherwise; `DIRTY` is set on every execution; memory, `I` and the other registers are unchanged. -/
def Obligations.DrawXorsSprite : Prop :=
  ∀ (s : State) (x y n : Nibble), n = 0 ∨ s.idx.toNat + n.toNat ≤ 0x1000 → ∃ t, exec (.draw x y n) s = .next t ∧
    (∀ r c, SpriteCovers s (s.getV x) (s.getV y) n r c → pixel t.fb r c = !pixel s.fb r c) ∧
    (∀ r c, ¬ SpriteCovers s (s.getV x) (s.getV y) n r c → pixel t.fb r c = pixel s.fb r c) ∧
    (t.getV vf = 0 ∨ t.getV vf = 1) ∧
    (t.getV vf = 1 ↔ ∃ r c, SpriteCovers s (s.getV x) (s.getV y) n r c ∧ pixel s.fb r c = true) ∧
    t.dirty = true ∧ SameRegsBut vf s t ∧ t.pc = s.pc + 2 ∧ SameBut [.regs, .screen, .dirty, .pc] s t

/-- R193 (b) and (c) (conflict C2): drawing the same sprite at the same place twice restores every pixel, and the
second draw collides exactly when a pixel under a set sprite bit was 0 before the first. -/
def Obligations.DrawTwiceRestoresScreen : Prop :=
  ∀ (s t u : State) (x y n : Nibble), n = 0 ∨ s.idx.toNat + n.toNat ≤ 0x1000 → exec (.draw x y n) s = .next t →
    Same .screen t u → Same .memory s u → u.idx = s.idx → u.getV x = s.getV x → u.getV y = s.getV y →
    ∃ w, exec (.draw x y n) u = .next w ∧ Same .screen s w ∧
      (w.getV vf = 1 ↔ ∃ r c, SpriteCovers s (s.getV x) (s.getV y) n r c ∧ pixel s.fb r c = false)

/-! ## Keypad and timers (spec/45_keypad_timers.md) -/

/-- R200 to R202 (the spec's decision D14: the low four bits; log 22): skip if pressed, skip if not pressed. -/
def Obligations.KeySkips : Prop :=
  ∀ (s : State) (x k : Nibble), k.toNat = (s.getV x).toNat % 16 →
    (∃ t, exec (.skipKeyPressed x) s = .next t ∧ t.pc = (if s.key k = true then s.pc + 4 else s.pc + 2) ∧
      SameBut [.pc] s t) ∧
    (∃ t, exec (.skipKeyNotPressed x) s = .next t ∧ t.pc = (if s.key k = false then s.pc + 4 else s.pc + 2) ∧
      SameBut [.pc] s t)

/-- R203 with a key down (conflict C3 and the spec's decision D15: a level, the lowest index; log 23). -/
def Obligations.WaitKeyTakesLowestKey : Prop :=
  ∀ (s : State) (x k : Nibble), s.key k = true → (∀ j : Nibble, j.toNat < k.toNat → s.key j = false) →
    ∃ t, exec (.waitKey x) s = .next t ∧ (t.getV x).toNat = k.toNat ∧ SameRegsBut x s t ∧ t.pc = s.pc + 2 ∧
      SameBut [.regs, .pc] s t

/-- R203, R204 with no key down (C3, D15; log 23): the hold; nothing changes, so the next core step runs the same
instruction again. -/
def Obligations.WaitKeyHolds : Prop :=
  ∀ (s : State) (x : Nibble), (∀ k, s.key k = false) → ∃ t, exec (.waitKey x) s = .next t ∧ SameBut [] s t

/-- R205 to R207: reading the delay timer and setting both timers; `SOUND` follows `ST` (R41, the spec's decision D26;
log 29). -/
def Obligations.TimerAccess : Prop :=
  ∀ (s : State) (x : Nibble),
    (∃ t, exec (.getDelay x) s = .next t ∧ t.getV x = s.dt ∧ SameRegsBut x s t ∧ t.pc = s.pc + 2 ∧
      SameBut [.regs, .pc] s t) ∧
    (∃ t, exec (.setDelay x) s = .next t ∧ t.dt = s.getV x ∧ t.st = s.st ∧ t.pc = s.pc + 2 ∧
      SameBut [.timers, .pc] s t) ∧
    (∃ t, exec (.setSound x) s = .next t ∧ t.st = s.getV x ∧ t.dt = s.dt ∧
      (t.sound = true ↔ (s.getV x).toNat ≠ 0) ∧ t.pc = s.pc + 2 ∧ SameBut [.timers, .pc] s t)

/-! ## Font, BCD, dump and load (spec/46_memory_ops.md) -/

/-- R221 (the spec's decision D14: the low four bits; log 22). -/
def Obligations.FontAddressOfDigit : Prop :=
  ∀ (s : State) (x : Nibble), ∃ t, exec (.fontAddr x) s = .next t ∧
    t.idx.toNat = 5 * ((s.getV x).toNat % 16) ∧ t.pc = s.pc + 2 ∧ SameBut [.index, .pc] s t

/-- R222 inside memory: the three decimal digits at `I`, `I + 1`, `I + 2`; every other byte is unchanged. -/
def Obligations.BcdStoresThreeDigits : Prop :=
  ∀ (s : State) (x : Nibble), s.idx.toNat + 2 ≤ 0xFFF → ∃ t, exec (.storeBcd x) s = .next t ∧
    (t.readByte s.idx.toNat).toNat = (s.getV x).toNat / 100 ∧
    (t.readByte (s.idx.toNat + 1)).toNat = (s.getV x).toNat / 10 % 10 ∧
    (t.readByte (s.idx.toNat + 2)).toNat = (s.getV x).toNat % 10 ∧
    (∀ a, a < s.idx.toNat ∨ s.idx.toNat + 2 < a → t.readByte a = s.readByte a) ∧
    t.pc = s.pc + 2 ∧ SameBut [.memory, .pc] s t

/-- R223 inside memory: `V[0]` to `V[x]`, inclusive, from `I` on; every other byte, and `I`, are unchanged. -/
def Obligations.DumpStoresRegisters : Prop :=
  ∀ (s : State) (x : Nibble), s.idx.toNat + x.toNat ≤ 0xFFF → ∃ t, exec (.dumpRegs x) s = .next t ∧
    (∀ k : Nibble, k.toNat ≤ x.toNat → t.readByte (s.idx.toNat + k.toNat) = s.getV k) ∧
    (∀ a, a < s.idx.toNat ∨ s.idx.toNat + x.toNat < a → t.readByte a = s.readByte a) ∧
    t.pc = s.pc + 2 ∧ SameBut [.memory, .pc] s t

/-- R224 inside memory: `V[0]` to `V[x]`, inclusive, from the bytes at `I` on; the registers above `x`, and `I`, are
unchanged. -/
def Obligations.LoadReadsRegisters : Prop :=
  ∀ (s : State) (x : Nibble), s.idx.toNat + x.toNat ≤ 0xFFF → ∃ t, exec (.loadRegs x) s = .next t ∧
    (∀ k : Nibble, k.toNat ≤ x.toNat → t.getV k = s.readByte (s.idx.toNat + k.toNat)) ∧
    (∀ k : Nibble, x.toNat < k.toNat → t.getV k = s.getV k) ∧
    t.pc = s.pc + 2 ∧ SameBut [.regs, .pc] s t

/-- R62, R63 (the spec's decision D17; log 24): an instruction any of whose bytes lies above 0xFFF raises
`OutOfBoundsAccess` with the lowest such address, and writes nothing. -/
def Obligations.RangeFaultBeforeAnyWrite : Prop :=
  ∀ (s : State) (i : Instr) (last : Nat),
    (∃ x, i = .storeBcd x ∧ last = 2) ∨ (∃ x, i = .dumpRegs x ∧ last = x.toNat) ∨
    (∃ x, i = .loadRegs x ∧ last = x.toNat) ∨ (∃ x y n, i = .draw x y n ∧ n.toNat = last + 1) →
    0xFFF < s.idx.toNat + last →
    ∃ t a, exec i s = .next t ∧ Faulted (.outOfBoundsAccess a) s t ∧
      a.toNat = if 0xFFF < s.idx.toNat then s.idx.toNat else 0x1000

/-- R225: a load of the same registers, with `I` and the memory the dump left, restores the registers. -/
def Obligations.DumpThenLoadRestores : Prop :=
  ∀ (s t u : State) (x : Nibble), s.idx.toNat + x.toNat ≤ 0xFFF → exec (.dumpRegs x) s = .next t →
    Same .memory t u → u.idx = s.idx →
    ∃ w, exec (.loadRegs x) u = .next w ∧ ∀ k : Nibble, k.toNat ≤ x.toNat → w.getV k = s.getV k

/-- R71: the bytes a dump or a BCD store leaves, whichever of them it wrote, are what the very next core step fetches
and runs (self-modifying code); the word is big-endian (R60, the spec's decision D2; log 14). -/
def Obligations.StoredWordIsFetched : Prop :=
  ∀ (s t : State) (i j : Instr) (b : Nat → Byte), exec i s = .next t →
    (∃ x : Nibble, (i = .dumpRegs x ∧ s.idx.toNat + x.toNat ≤ 0xFFF ∧
      ∀ a, b a = if s.idx.toNat ≤ a ∧ a ≤ s.idx.toNat + x.toNat then s.getV (BitVec.ofNat 4 (a - s.idx.toNat))
        else s.readByte a) ∨
      (i = .storeBcd x ∧ s.idx.toNat + 2 ≤ 0xFFF ∧
      ∀ a, b a = if a = s.idx.toNat then BitVec.ofNat 8 ((s.getV x).toNat / 100)
        else if a = s.idx.toNat + 1 then BitVec.ofNat 8 ((s.getV x).toNat / 10 % 10)
        else if a = s.idx.toNat + 2 then BitVec.ofNat 8 ((s.getV x).toNat % 10) else s.readByte a)) →
    (s.pc + 2).toNat ≤ 0xFFE →
    decode (BitVec.ofNat 16 ((b (s.pc + 2).toNat).toNat * 256 + (b ((s.pc + 2).toNat + 1)).toNat)) = .ok j →
    coreStep t = exec j t

/-! ## The instruction cycle and the faults (spec/60_exceptions.md) -/

/-- R240 with R60 (big-endian fetch, the spec's decision D2; log 14): where the CORE has its turn and the word at `pc`
decodes, one step is the instruction's rule, and nothing else is done; a `Step` that was due is used up (log 2). -/
def Obligations.StepRunsDecodedInstruction : Prop :=
  ∀ (s u : State) (i : Instr), CoreTurn s u → s.halt = false → s.pc.toNat ≤ 0xFFE →
    decode (BitVec.ofNat 16 ((s.readByte s.pc.toNat).toNat * 256 + (s.readByte (s.pc.toNat + 1)).toNat)) = .ok i →
    step s = exec i u

/-- The model's placing of a word (log 9): the next step runs exactly it; both latches are cleared and no event is due,
and no byte of memory but the two at `pc`, nor any other part, changes. -/
def Obligations.PlacedWordRuns : Prop :=
  ∀ (s u : State) (w : Nat) (i : Instr), s.pc.toNat ≤ 0xFFE → w < 65536 → decode (BitVec.ofNat 16 w) = .ok i →
    u = s.withFetchWord 16 w →
    step u = exec i u ∧ (∀ a, a ≠ s.pc.toNat → a ≠ s.pc.toNat + 1 → u.readByte a = s.readByte a) ∧
      u.halt = false ∧ u.fault = .none ∧ u.due = none ∧ SameBut [.memory, .latches, .agenda, .supply] s u

/-- R64 (derived there from R62; D17, log 24): a fetch above 0xFFE faults, whatever the bytes are. A `Step` that was due
is used up, which is the model's convention (log 2); nothing else changes but the latches. -/
def Obligations.FetchOutsideMemoryFaults : Prop :=
  ∀ s u : State, CoreTurn s u → s.halt = false → 0xFFE < s.pc.toNat →
    ∃ t a, step s = .next t ∧ Faulted (.outOfBoundsAccess a) u t ∧
      a.toNat = if 0xFFF < s.pc.toNat then s.pc.toNat else 0x1000

/-- R242 (the spec's decision D16: halt; conflict C6; log 24): an illegal word faults with itself as the record. The
word is read big-endian (R60, the spec's decision D2; log 14). A `Step` that was due is used up, which is the model's
convention (log 2); nothing else changes but the latches. -/
def Obligations.UnsupportedWordFaults : Prop :=
  ∀ (s u : State) (w raw : Word), CoreTurn s u → s.halt = false → s.pc.toNat ≤ 0xFFE →
    w = BitVec.ofNat 16 ((s.readByte s.pc.toNat).toNat * 256 + (s.readByte (s.pc.toNat + 1)).toNat) →
    decode w = .error (.unsupportedInstruction raw) →
    ∃ t, step s = .next t ∧ Faulted (.unsupportedInstruction w) u t

/-- R246 (the spec's decisions D16, D17; log 24): faults are precise; a core step that ends halted has recorded a
fault and written nothing else. -/
def Obligations.FaultsArePrecise : Prop :=
  ∀ s t : State, s.halt = false → coreStep s = .next t → t.halt = true → t.fault ≠ .none ∧ SameBut [.latches] s t

/-- R248 (the latches are the spec's decision D16, log 24; what comes next, log 2): no return and no nesting. A halted
machine that takes a step which is no `Reset` and no `LoadImage` stays halted with its first record, and only timers,
keys and `DIRTY` can change; with nothing due it cannot step (log 4). -/
def Obligations.HaltedMachineKeepsRecord : Prop :=
  ∀ s : State, s.halt = true →
    (s.due = none → step s = .fault .halted) ∧
    (∀ t, step s = .next t → s.due ≠ some .reset → (∀ bytes, s.due ≠ some (.loadImage bytes)) →
      SameBut [.timers, .keys, .dirty, .agenda, .supply] s t)

/-- R7, R35, R285: a step has no next state only where nothing can move (halted, nothing due; logs 2, 4) and where an
image is too long (log 6). No instruction stops the machine otherwise. -/
def Obligations.StepStopsOnlyWhereNothingCanMove : Prop :=
  ∀ s : State, (∃ t, step s = .next t) ∨
    (step s = .fault .halted ∧ s.halt = true ∧ s.due = none) ∨
    (step s = .refused .imageTooLong ∧ ∃ bytes, s.due = some (.loadImage bytes) ∧ 3584 < bytes.length)

/-! ## Invariants (spec/10_state.md R43, R26; spec/40_control_flow.md R144) -/

/-- The invariant is kept by every step, whatever event it is: canonical memory (log 12), `HALT = 1` exactly when
`FAULT` is not `None` (R43, D16; log 24), and a call stack of fetchable addresses (R144, D5; log 16). -/
def Obligations.StepKeepsInvariant : Prop :=
  ∀ s t : State, s.Inv → step s = .next t → t.Inv

/-- The invariant (canonical memory, log 12) holds after reset, whatever the parameters and whether or not the outside
goes on; the reset values are the spec's decision D18 (log 10). -/
def Obligations.ResetMeetsInvariant : Prop :=
  State.reset.Inv ∧ ∀ p : Config.Params, (State.resetWith p).Inv ∧ (State.resetWithOutside p).Inv

/-- R26: from a fetchable `pc` and a call stack of fetchable addresses (kept by `StepKeepsInvariant`), no core step
takes `pc` above 0x10FE, so the 16-bit register never overflows (D4, D5, D8; logs 13, 15, 16). -/
def Obligations.ProgramCounterBound : Prop :=
  ∀ s t : State, (∀ j : Fin 16, s.stack[j].toNat ≤ 0xFFE) → s.pc.toNat ≤ 0xFFE → coreStep s = .next t →
    t.pc.toNat ≤ 0x10FE

/-! ## Who writes what (spec/10_state.md R21, R23, R27, R28, R34) -/

/-- R28 (D6, D7; logs 16, 17): only `CALL`, `RET`, and `SYS` under `SYS_POLICY = Call`, touch `SP` and `STACK`. -/
def Obligations.StackTouchedOnlyByCallsAndReturns : Prop :=
  ∀ (i : Instr) (s t : State), exec i s = .next t → (∀ nnn, i ≠ .call nnn) → i ≠ .ret →
    (s.params.sysPolicy = .call → ∀ nnn, i ≠ .sys nnn) → Same .stack s t

/-- R27: `I` is written by `LD I,nnn`, `ADD I,Vx` and `LD F,Vx` only. -/
def Obligations.IndexWrittenOnlyByThree : Prop :=
  ∀ (i : Instr) (s t : State), exec i s = .next t → (∀ nnn, i ≠ .setIndex nnn) → (∀ x, i ≠ .addIndex x) →
    (∀ x, i ≠ .fontAddr x) → Same .index s t

/-- R21, R23: a general register changes only as a named destination, or as VF by an instruction of R23. -/
def Obligations.RegistersWrittenOnlyAsNamed : Prop :=
  ∀ (i : Instr) (s t : State) (r : Nibble), exec i s = .next t → namesDestination r i = false →
    (r = vf → flagWriter s.params i = false) → t.getV r = s.getV r

/-- R34, R66: memory, framebuffer, `DIRTY`, timers and keys change only by the instructions listed; no instruction
changes the parameters, the agenda and the supply, or (but `RND`) the count of samplings (logs 1, 2, 3). `DIRTY` is D20
(log 26). -/
def Obligations.DevicesWrittenOnlyByTheirInstructions : Prop :=
  ∀ (i : Instr) (s t : State), exec i s = .next t →
    ((∀ x, i ≠ .storeBcd x) → (∀ x, i ≠ .dumpRegs x) → Same .memory s t) ∧
    (i ≠ .clearScreen → (∀ x y n, i ≠ .draw x y n) → Same .screen s t ∧ Same .dirty s t) ∧
    ((∀ x, i ≠ .setDelay x) → t.dt = s.dt) ∧ ((∀ x, i ≠ .setSound x) → t.st = s.st) ∧
    ((∀ x kk, i ≠ .random x kk) → Same .draws s t) ∧
    Same .keys s t ∧ Same .params s t ∧ Same .agenda s t ∧ Same .supply s t

/-- R29, R32: no instruction reads `ST` or `DIRTY`. Two states that differ in them alone leave, by the same instruction,
states that differ in them alone. -/
def Obligations.SoundAndDirtyNeverRead : Prop :=
  ∀ (i : Instr) (s t : State) (b : Byte) (d : Bool), exec i s = .next t →
    ∃ u, exec i ((s.setSt b).setDirty d) = .next u ∧ SameBut [.timers, .dirty] t u ∧ u.dt = t.dt

/-! ## The outside events (spec/60_exceptions.md, spec/70_reset_and_hazards.md) -/

/-- R256, R259 (one event for both timers, the spec's decision D27; log 27): both timers count down and floor at zero,
in every state, halted or not. That the event is then used up is the model's convention (log 2). -/
def Obligations.TickCountsDown : Prop :=
  ∀ s : State, s.due = some .tick → ∃ t, step s = .next t ∧
    t.dt.toNat = s.dt.toNat - 1 ∧ t.st.toNat = s.st.toNat - 1 ∧ SameBut [.timers] s.consume t

/-- R260 and R263 (the spec's decisions D1, D20; logs 2, 26): a key event changes one key, an acknowledgement clears
`DIRTY`, and nothing else changes. -/
def Obligations.KeyEventAndPresentAck : Prop :=
  ∀ s : State,
    (∀ k p, s.due = some (.keyEvent k p) → ∃ t, step s = .next t ∧ t.key k = p ∧
      (∀ j, j ≠ k → t.key j = s.key j) ∧ SameBut [.keys] s.consume t) ∧
    (s.due = some .presentAck → ∃ t, step s = .next t ∧ t.dirty = false ∧ SameBut [.dirty] s.consume t)

/-- R39, R280 (all but the font the spec's decision D18; logs 7, 10; the event is used up, log 2): the reset table,
after power-on with default parameters, where `pc` is 0x200, and after a `Reset` event in any state. -/
def Obligations.ResetGivesResetTable : Prop :=
  (ResetButMemory State.reset.params State.reset ∧ (∀ a, HoldsResetByte State.reset.params State.reset a) ∧
    State.reset.pc = 0x200) ∧
  ∀ s : State, s.due = some .reset → ∃ t, step s = .next t ∧
    ResetButMemory s.params t ∧ (∀ a, HoldsResetByte s.params t a) ∧
    Same .agenda s.consume t ∧ Same .supply s.consume t ∧ Same .draws s t

/-- R284, R285 (the spec's decision D24; logs 6, 28): the image verbatim from 0x200 on over a reset machine (the reset
values are D18, log 10; what stays is log 7; the event is used up, log 2); an image of more than 3584 bytes is refused.
-/
def Obligations.LoadImageCopiesAfterReset : Prop :=
  ∀ (s : State) (bytes : List Byte), s.due = some (.loadImage bytes) →
    (bytes.length ≤ 3584 → ∃ t, step s = .next t ∧ ResetButMemory s.params t ∧
      (∀ (k : Nat) (h : k < bytes.length), t.readByte (0x200 + k) = bytes[k]) ∧
      (∀ a, a < 0x200 ∨ 0x200 + bytes.length ≤ a → HoldsResetByte s.params t a) ∧
      Same .agenda s.consume t ∧ Same .supply s.consume t ∧ Same .draws s t) ∧
    (3584 < bytes.length → step s = .refused .imageTooLong)

/-- The model's own convention (logs 1, 2): each step uses up the event that is due, the first of the agenda or after it
the next of the free schedule, and no step changes the parameters. -/
def Obligations.AgendaConsumedAndParamsKept : Prop :=
  ∀ s t : State, step s = .next t → Same .params s t ∧
    (∀ e rest, s.agenda = e :: rest → s.due = some e ∧ t.agenda = rest ∧ t.supply = s.supply) ∧
    (∀ k, s.agenda = [] → s.supply = some k →
      s.due = some (Config.schedule k) ∧ t.agenda = [] ∧ t.supply = some (k + 1)) ∧
    (s.agenda = [] → s.supply = none → s.due = none ∧ t.agenda = [] ∧ t.supply = none)

/-- R257: what a step does depends on the machine and on the event that is due, and not on what comes after it or on
where the event stands, in the agenda or in the free schedule (log 2). -/
def Obligations.EffectIgnoresWhatComesLater : Prop :=
  ∀ (s t u : State) (a : List Config.Event) (o : Option Nat), u = (s.setAgenda a).setSupply o → u.due = s.due →
    step s = .next t → ∃ w, step u = .next w ∧ SameBut [.agenda, .supply] t w
end

