-- ==== Sys2Proof/Laws/Blitter.lean ====
section
/-! SUPPORT. The law of the blitter: exactly the pixels under set sprite bits are toggled, and the collision flag says
whether one of them was set before (spec/44_display.md R192, R193). -/

namespace Sys2Proof.Machine

theorem pixel_togglePixel (fb : Framebuffer) (r r' : Fin 32) (c c' : Fin 64) :
    pixel (togglePixel fb r c) r' c' = if r' = r ∧ c' = c then !pixel fb r' c' else pixel fb r' c' := by
  simp only [pixel, togglePixel, Fin.getElem_fin, Vector.getElem_set]
  by_cases hr : r' = r
  · subst hr
    by_cases hc : c' = c
    · subst hc; simp
    · have : c.val ≠ c'.val := fun h => hc (Fin.ext h.symm)
      simp [hc, this]
  · have : r.val ≠ r'.val := fun h => hr (Fin.ext h.symm)
    simp [hr, this]

theorem pixel_blankScreen (r : Fin 32) (c : Fin 64) : pixel blankScreen r c = false := by
  simp [pixel, blankScreen]

theorem screenCol_inj (cx : Byte) {i j : Nat} (hi : i < 64) (hj : j < 64) (h : screenCol cx i = screenCol cx j) :
    i = j := by
  simp only [screenCol, Fin.mk.injEq] at h
  omega

theorem screenRow_inj (cy : Byte) {i j : Nat} (hi : i < 32) (hj : j < 32) (h : screenRow cy i = screenRow cy j) :
    i = j := by
  simp only [screenRow, Fin.mk.injEq] at h
  omega

/-- The pixels one sprite row covers with its first `k` columns. -/
def rowCovers (cx cy : Byte) (row : Nat) (b : Byte) (k : Nat) (r : Fin 32) (c : Fin 64) : Prop :=
  r = screenRow cy row ∧ ∃ col, col < k ∧ spriteBit b col = true ∧ c = screenCol cx col

/-- The pixels the sprite rows `bs` cover, the first of them row number `start`. -/
def rowsCover (cx cy : Byte) (start : Nat) (bs : List Byte) (r : Fin 32) (c : Fin 64) : Prop :=
  ∃ k, ∃ h : k < bs.length, rowCovers cx cy (start + k) bs[k] 8 r c

/-- `after` is `acc` with the pixels of `P` toggled, its collision flag raised where one of them was set. -/
structure BlitOf (P : Fin 32 → Fin 64 → Prop) (acc after : Blit) : Prop where
  inside : ∀ r c, P r c → pixel after.fb r c = !pixel acc.fb r c
  outside : ∀ r c, ¬ P r c → pixel after.fb r c = pixel acc.fb r c
  collision : after.collision = true ↔ acc.collision = true ∨ ∃ r c, P r c ∧ pixel acc.fb r c = true

/-- Two disjoint sets of pixels toggled one after the other. -/
theorem BlitOf.trans {P Q R : Fin 32 → Fin 64 → Prop} {a b c : Blit} (h1 : BlitOf P a b) (h2 : BlitOf Q b c)
    (hR : ∀ x y, R x y ↔ P x y ∨ Q x y) (hd : ∀ x y, P x y → ¬ Q x y) : BlitOf R a c where
  inside x y h := by
    rcases (hR x y).mp h with hp | hq
    · rw [h2.outside x y (hd x y hp), h1.inside x y hp]
    · rw [h2.inside x y hq, h1.outside x y (fun hp => hd x y hp hq)]
  outside x y h := by
    have hp : ¬ P x y := fun hp => h ((hR x y).mpr (.inl hp))
    have hq : ¬ Q x y := fun hq => h ((hR x y).mpr (.inr hq))
    rw [h2.outside x y hq, h1.outside x y hp]
  collision := by
    rw [h2.collision, h1.collision]
    constructor
    · rintro ((ha | ⟨x, y, hp, hv⟩) | ⟨x, y, hq, hv⟩)
      · exact .inl ha
      · exact .inr ⟨x, y, (hR x y).mpr (.inl hp), hv⟩
      · exact .inr ⟨x, y, (hR x y).mpr (.inr hq), by rwa [h1.outside x y (fun hp => hd x y hp hq)] at hv⟩
    · rintro (ha | ⟨x, y, hxy, hv⟩)
      · exact .inl (.inl ha)
      · rcases (hR x y).mp hxy with hp | hq
        · exact .inl (.inr ⟨x, y, hp, hv⟩)
        · exact .inr ⟨x, y, hq, by rwa [h1.outside x y (fun hp => hd x y hp hq)]⟩

theorem BlitOf.refl (acc : Blit) {P : Fin 32 → Fin 64 → Prop} (hP : ∀ r c, ¬ P r c) : BlitOf P acc acc where
  inside r c h := absurd h (hP r c)
  outside _ _ _ := rfl
  collision := ⟨.inl, fun h => h.elim id (fun ⟨r, c, h, _⟩ => absurd h (hP r c))⟩

/-- The body of the inner loop toggles the one pixel of a set bit. -/
theorem blitPixel_spec (cx cy : Byte) (row : Nat) (b : Byte) (acc : Blit) (col : Nat) :
    BlitOf (fun r c => spriteBit b col = true ∧ r = screenRow cy row ∧ c = screenCol cx col) acc
      (blitPixel cx cy row b acc col) := by
  by_cases hb : spriteBit b col = true
  · constructor
    · rintro r c ⟨_, rfl, rfl⟩
      simp [blitPixel, hb, pixel_togglePixel]
    · intro r c h
      have : ¬ (r = screenRow cy row ∧ c = screenCol cx col) := fun h' => h ⟨hb, h'⟩
      simp [blitPixel, hb, pixel_togglePixel, this]
    · simp [blitPixel, hb]
  · have : blitPixel cx cy row b acc col = acc := by simp [blitPixel, hb]
    rw [this]
    exact BlitOf.refl acc (fun r c h => hb h.1)

theorem blitCols_spec (cx cy : Byte) (row : Nat) (b : Byte) (acc : Blit) (k : Nat) (hk : k ≤ 8) :
    BlitOf (rowCovers cx cy row b k) acc ((List.range k).foldl (blitPixel cx cy row b) acc) := by
  induction k with
  | zero => exact BlitOf.refl acc (fun r c h => by obtain ⟨_, col, h, _⟩ := h; omega)
  | succ k ih =>
    rw [List.range_succ, List.foldl_append, List.foldl_cons, List.foldl_nil]
    refine (ih (by omega)).trans (blitPixel_spec cx cy row b _ k) (fun r c => ?_) (fun r c h1 h2 => ?_)
    · constructor
      · rintro ⟨hr, col, hcol, hb, hc⟩
        by_cases h : col = k
        · subst h; exact .inr ⟨hb, hr, hc⟩
        · exact .inl ⟨hr, col, by omega, hb, hc⟩
      · rintro (⟨hr, col, hcol, hb, hc⟩ | ⟨hb, hr, hc⟩)
        · exact ⟨hr, col, by omega, hb, hc⟩
        · exact ⟨hr, k, by omega, hb, hc⟩
    · obtain ⟨_, col, hcol, _, hc⟩ := h1
      have := screenCol_inj cx (i := col) (j := k) (by omega) (by omega) (hc ▸ h2.2.2)
      omega

/-- One sprite row. -/
theorem blitRow_spec (cx cy : Byte) (row : Nat) (b : Byte) (acc : Blit) :
    BlitOf (rowCovers cx cy row b 8) acc (blitRow cx cy row b acc) :=
  blitCols_spec cx cy row b acc 8 (by omega)

/-- The sprite rows from number `start` on. -/
theorem blitRows_spec (cx cy : Byte) (start : Nat) (bs : List Byte) (acc : Blit) (h : start + bs.length ≤ 32) :
    BlitOf (rowsCover cx cy start bs) acc (blitRows cx cy start bs acc) := by
  induction bs generalizing start acc with
  | nil => exact BlitOf.refl acc (fun r c h => by obtain ⟨k, hk, _⟩ := h; simp at hk)
  | cons b bs ih =>
    simp only [List.length_cons] at h
    rw [blitRows]
    refine (blitRow_spec cx cy start b acc).trans (ih (start + 1) _ (by omega)) (fun r c => ?_) (fun r c h1 h2 => ?_)
    · constructor
      · rintro ⟨k, hk, hcov⟩
        cases k with
        | zero => exact .inl hcov
        | succ k =>
          refine .inr ⟨k, by simpa using hk, ?_⟩
          simpa [Nat.add_assoc, Nat.add_comm 1] using hcov
      · rintro (h1 | ⟨k, hk, hcov⟩)
        · exact ⟨0, by simp, h1⟩
        · exact ⟨k + 1, by simpa using hk, by simpa [Nat.add_assoc, Nat.add_comm 1] using hcov⟩
    · obtain ⟨k, hk, hr, _⟩ := h2
      have := screenRow_inj cy (i := start) (j := start + 1 + k) (by omega) (by omega) (h1.1 ▸ hr)
      omega

/-- A whole sprite of at most 32 rows: the pixels under its set bits are toggled, no other, and the collision flag is
1 exactly when one of them was set. -/
theorem blit_spec (cx cy : Byte) (bs : List Byte) (fb : Framebuffer) (h : bs.length ≤ 32) :
    BlitOf (rowsCover cx cy 0 bs) ⟨fb, false⟩ (blit cx cy bs fb) :=
  blitRows_spec cx cy 0 bs ⟨fb, false⟩ (by omega)

end Sys2Proof.Machine
end

