-- ==== Sys2Proof/Laws/Encoding.lean ====
section
/-! SUPPORT. The fields of an encoded word, and a word put together again from its fields
(spec/30_encoding.md R92, R94, R105). -/

namespace Sys2Proof

/-! ## `encodeNnn` -/

@[simp] theorem fieldOp_encodeNnn (op : Nibble) (nnn : Addr12) : fieldOp (encodeNnn op nnn) = op := by
  apply BitVec.eq_of_getLsbD_eq
  intro i hi
  simp only [fieldOp, encodeNnn, BitVec.getLsbD_append, BitVec.getLsbD_extractLsb']
  interval_cases i <;> simp

@[simp] theorem fieldNnn_encodeNnn (op : Nibble) (nnn : Addr12) : fieldNnn (encodeNnn op nnn) = nnn := by
  apply BitVec.eq_of_getLsbD_eq
  intro i hi
  simp only [fieldNnn, encodeNnn, BitVec.getLsbD_append, BitVec.getLsbD_extractLsb']
  interval_cases i <;> simp

theorem encodeNnn_fields (w : Word) : encodeNnn (fieldOp w) (fieldNnn w) = w := by
  apply BitVec.eq_of_getLsbD_eq
  intro i hi
  simp only [fieldOp, fieldNnn, encodeNnn, BitVec.getLsbD_append, BitVec.getLsbD_extractLsb']
  interval_cases i <;> simp

/-! ## `encodeXkk` -/

@[simp] theorem fieldOp_encodeXkk (op x : Nibble) (kk : Byte) : fieldOp (encodeXkk op x kk) = op := by
  apply BitVec.eq_of_getLsbD_eq
  intro i hi
  simp only [fieldOp, encodeXkk, BitVec.getLsbD_append, BitVec.getLsbD_extractLsb']
  interval_cases i <;> simp

@[simp] theorem fieldX_encodeXkk (op x : Nibble) (kk : Byte) : fieldX (encodeXkk op x kk) = x := by
  apply BitVec.eq_of_getLsbD_eq
  intro i hi
  simp only [fieldX, encodeXkk, BitVec.getLsbD_append, BitVec.getLsbD_extractLsb']
  interval_cases i <;> simp

@[simp] theorem fieldKk_encodeXkk (op x : Nibble) (kk : Byte) : fieldKk (encodeXkk op x kk) = kk := by
  apply BitVec.eq_of_getLsbD_eq
  intro i hi
  simp only [fieldKk, encodeXkk, BitVec.getLsbD_append, BitVec.getLsbD_extractLsb']
  interval_cases i <;> simp

theorem encodeXkk_fields (w : Word) : encodeXkk (fieldOp w) (fieldX w) (fieldKk w) = w := by
  apply BitVec.eq_of_getLsbD_eq
  intro i hi
  simp only [fieldOp, fieldX, fieldKk, encodeXkk, BitVec.getLsbD_append, BitVec.getLsbD_extractLsb']
  interval_cases i <;> simp

/-! ## `encodeXyn` -/

@[simp] theorem fieldOp_encodeXyn (op x y n : Nibble) : fieldOp (encodeXyn op x y n) = op := by
  apply BitVec.eq_of_getLsbD_eq
  intro i hi
  simp only [fieldOp, encodeXyn, BitVec.getLsbD_append, BitVec.getLsbD_extractLsb']
  interval_cases i <;> simp

@[simp] theorem fieldX_encodeXyn (op x y n : Nibble) : fieldX (encodeXyn op x y n) = x := by
  apply BitVec.eq_of_getLsbD_eq
  intro i hi
  simp only [fieldX, encodeXyn, BitVec.getLsbD_append, BitVec.getLsbD_extractLsb']
  interval_cases i <;> simp

@[simp] theorem fieldY_encodeXyn (op x y n : Nibble) : fieldY (encodeXyn op x y n) = y := by
  apply BitVec.eq_of_getLsbD_eq
  intro i hi
  simp only [fieldY, encodeXyn, BitVec.getLsbD_append, BitVec.getLsbD_extractLsb']
  interval_cases i <;> simp

@[simp] theorem fieldN_encodeXyn (op x y n : Nibble) : fieldN (encodeXyn op x y n) = n := by
  apply BitVec.eq_of_getLsbD_eq
  intro i hi
  simp only [fieldN, encodeXyn, BitVec.getLsbD_append, BitVec.getLsbD_extractLsb']
  interval_cases i <;> simp

theorem encodeXyn_fields (w : Word) : encodeXyn (fieldOp w) (fieldX w) (fieldY w) (fieldN w) = w := by
  apply BitVec.eq_of_getLsbD_eq
  intro i hi
  simp only [fieldOp, fieldX, fieldY, fieldN, encodeXyn, BitVec.getLsbD_append, BitVec.getLsbD_extractLsb']
  interval_cases i <;> simp

/-! ## The masks of the map's rows (R100) -/

/-- A row with the mask 0xF000 tests the top nibble. -/
theorem mask_op (w : Word) (k : Nibble) : w &&& 0xF000 = encodeNnn k 0 ↔ fieldOp w = k := by
  have h : w &&& 0xF000 = encodeNnn (fieldOp w) 0 := by
    apply BitVec.eq_of_getLsbD_eq
    intro i hi
    simp only [fieldOp, encodeNnn, BitVec.getLsbD_append, BitVec.getLsbD_extractLsb', BitVec.getLsbD_and]
    interval_cases i <;> simp
  rw [h]
  exact ⟨fun e => by simpa using congrArg fieldOp e, fun e => by rw [e]⟩

/-- A row with the mask 0xF00F tests the top and the low nibble. -/
theorem mask_op_n (w : Word) (k l : Nibble) :
    w &&& 0xF00F = encodeXyn k 0 0 l ↔ fieldOp w = k ∧ fieldN w = l := by
  have h : w &&& 0xF00F = encodeXyn (fieldOp w) 0 0 (fieldN w) := by
    apply BitVec.eq_of_getLsbD_eq
    intro i hi
    simp only [fieldOp, fieldN, encodeXyn, BitVec.getLsbD_append, BitVec.getLsbD_extractLsb', BitVec.getLsbD_and]
    interval_cases i <;> simp
  rw [h]
  exact ⟨fun e => ⟨by simpa using congrArg fieldOp e, by simpa using congrArg fieldN e⟩,
    fun ⟨e, e'⟩ => by rw [e, e']⟩

/-- A row with the mask 0xF0FF tests the top nibble and the low byte. -/
theorem mask_op_kk (w : Word) (k : Nibble) (b : Byte) :
    w &&& 0xF0FF = encodeXkk k 0 b ↔ fieldOp w = k ∧ fieldKk w = b := by
  have h : w &&& 0xF0FF = encodeXkk (fieldOp w) 0 (fieldKk w) := by
    apply BitVec.eq_of_getLsbD_eq
    intro i hi
    simp only [fieldOp, fieldKk, encodeXkk, BitVec.getLsbD_append, BitVec.getLsbD_extractLsb', BitVec.getLsbD_and]
    interval_cases i <;> simp
  rw [h]
  exact ⟨fun e => ⟨by simpa using congrArg fieldOp e, by simpa using congrArg fieldKk e⟩,
    fun ⟨e, e'⟩ => by rw [e, e']⟩

/-! ## Words and their bytes (R60) -/

theorem wordOfBytes_bytes (w : Word) : wordOfBytes (w.extractLsb' 8 8) (w.extractLsb' 0 8) = w := by
  apply BitVec.eq_of_getLsbD_eq
  intro i hi
  simp only [wordOfBytes, BitVec.getLsbD_append, BitVec.getLsbD_extractLsb']
  interval_cases i <;> simp

end Sys2Proof
end

