-- ==== Sys2Proof/Laws/State.lean ====
section
/-! SUPPORT. One lemma for each field of State and each update of Machine/Ops.lean, and for each accessor, so that no
proof unfolds a record update. -/

namespace Sys2Proof.Machine

open Config (Event)

variable (s : State)

/-! ## `setV` -/

@[simp] theorem State.setV_v (x : Nibble) (b : Byte) : (s.setV x b).v = s.v.set x.toNat b := rfl
@[simp] theorem State.setV_idx (x : Nibble) (b : Byte) : (s.setV x b).idx = s.idx := rfl
@[simp] theorem State.setV_pc (x : Nibble) (b : Byte) : (s.setV x b).pc = s.pc := rfl
@[simp] theorem State.setV_sp (x : Nibble) (b : Byte) : (s.setV x b).sp = s.sp := rfl
@[simp] theorem State.setV_stack (x : Nibble) (b : Byte) : (s.setV x b).stack = s.stack := rfl
@[simp] theorem State.setV_dt (x : Nibble) (b : Byte) : (s.setV x b).dt = s.dt := rfl
@[simp] theorem State.setV_st (x : Nibble) (b : Byte) : (s.setV x b).st = s.st := rfl
@[simp] theorem State.setV_mem (x : Nibble) (b : Byte) : (s.setV x b).mem = s.mem := rfl
@[simp] theorem State.setV_fb (x : Nibble) (b : Byte) : (s.setV x b).fb = s.fb := rfl
@[simp] theorem State.setV_dirty (x : Nibble) (b : Byte) : (s.setV x b).dirty = s.dirty := rfl
@[simp] theorem State.setV_keys (x : Nibble) (b : Byte) : (s.setV x b).keys = s.keys := rfl
@[simp] theorem State.setV_halt (x : Nibble) (b : Byte) : (s.setV x b).halt = s.halt := rfl
@[simp] theorem State.setV_fault (x : Nibble) (b : Byte) : (s.setV x b).fault = s.fault := rfl
@[simp] theorem State.setV_params (x : Nibble) (b : Byte) : (s.setV x b).params = s.params := rfl
@[simp] theorem State.setV_draws (x : Nibble) (b : Byte) : (s.setV x b).draws = s.draws := rfl
@[simp] theorem State.setV_agenda (x : Nibble) (b : Byte) : (s.setV x b).agenda = s.agenda := rfl
@[simp] theorem State.setV_supply (x : Nibble) (b : Byte) : (s.setV x b).supply = s.supply := rfl
@[simp] theorem State.readByte_setV (x : Nibble) (b : Byte) (c : Nat) : (s.setV x b).readByte c = s.readByte c := rfl
@[simp] theorem State.key_setV (x : Nibble) (b : Byte) (j : Nibble) : (s.setV x b).key j = s.key j := rfl

/-! ## `setIdx` -/

@[simp] theorem State.setIdx_v (a : Word) : (s.setIdx a).v = s.v := rfl
@[simp] theorem State.setIdx_idx (a : Word) : (s.setIdx a).idx = a := rfl
@[simp] theorem State.setIdx_pc (a : Word) : (s.setIdx a).pc = s.pc := rfl
@[simp] theorem State.setIdx_sp (a : Word) : (s.setIdx a).sp = s.sp := rfl
@[simp] theorem State.setIdx_stack (a : Word) : (s.setIdx a).stack = s.stack := rfl
@[simp] theorem State.setIdx_dt (a : Word) : (s.setIdx a).dt = s.dt := rfl
@[simp] theorem State.setIdx_st (a : Word) : (s.setIdx a).st = s.st := rfl
@[simp] theorem State.setIdx_mem (a : Word) : (s.setIdx a).mem = s.mem := rfl
@[simp] theorem State.setIdx_fb (a : Word) : (s.setIdx a).fb = s.fb := rfl
@[simp] theorem State.setIdx_dirty (a : Word) : (s.setIdx a).dirty = s.dirty := rfl
@[simp] theorem State.setIdx_keys (a : Word) : (s.setIdx a).keys = s.keys := rfl
@[simp] theorem State.setIdx_halt (a : Word) : (s.setIdx a).halt = s.halt := rfl
@[simp] theorem State.setIdx_fault (a : Word) : (s.setIdx a).fault = s.fault := rfl
@[simp] theorem State.setIdx_params (a : Word) : (s.setIdx a).params = s.params := rfl
@[simp] theorem State.setIdx_draws (a : Word) : (s.setIdx a).draws = s.draws := rfl
@[simp] theorem State.setIdx_agenda (a : Word) : (s.setIdx a).agenda = s.agenda := rfl
@[simp] theorem State.setIdx_supply (a : Word) : (s.setIdx a).supply = s.supply := rfl
@[simp] theorem State.getV_setIdx (a : Word) (r : Nibble) : (s.setIdx a).getV r = s.getV r := rfl
@[simp] theorem State.readByte_setIdx (a : Word) (c : Nat) : (s.setIdx a).readByte c = s.readByte c := rfl
@[simp] theorem State.key_setIdx (a : Word) (j : Nibble) : (s.setIdx a).key j = s.key j := rfl

/-! ## `setPc` -/

@[simp] theorem State.setPc_v (a : Word) : (s.setPc a).v = s.v := rfl
@[simp] theorem State.setPc_idx (a : Word) : (s.setPc a).idx = s.idx := rfl
@[simp] theorem State.setPc_pc (a : Word) : (s.setPc a).pc = a := rfl
@[simp] theorem State.setPc_sp (a : Word) : (s.setPc a).sp = s.sp := rfl
@[simp] theorem State.setPc_stack (a : Word) : (s.setPc a).stack = s.stack := rfl
@[simp] theorem State.setPc_dt (a : Word) : (s.setPc a).dt = s.dt := rfl
@[simp] theorem State.setPc_st (a : Word) : (s.setPc a).st = s.st := rfl
@[simp] theorem State.setPc_mem (a : Word) : (s.setPc a).mem = s.mem := rfl
@[simp] theorem State.setPc_fb (a : Word) : (s.setPc a).fb = s.fb := rfl
@[simp] theorem State.setPc_dirty (a : Word) : (s.setPc a).dirty = s.dirty := rfl
@[simp] theorem State.setPc_keys (a : Word) : (s.setPc a).keys = s.keys := rfl
@[simp] theorem State.setPc_halt (a : Word) : (s.setPc a).halt = s.halt := rfl
@[simp] theorem State.setPc_fault (a : Word) : (s.setPc a).fault = s.fault := rfl
@[simp] theorem State.setPc_params (a : Word) : (s.setPc a).params = s.params := rfl
@[simp] theorem State.setPc_draws (a : Word) : (s.setPc a).draws = s.draws := rfl
@[simp] theorem State.setPc_agenda (a : Word) : (s.setPc a).agenda = s.agenda := rfl
@[simp] theorem State.setPc_supply (a : Word) : (s.setPc a).supply = s.supply := rfl
@[simp] theorem State.getV_setPc (a : Word) (r : Nibble) : (s.setPc a).getV r = s.getV r := rfl
@[simp] theorem State.readByte_setPc (a : Word) (c : Nat) : (s.setPc a).readByte c = s.readByte c := rfl
@[simp] theorem State.key_setPc (a : Word) (j : Nibble) : (s.setPc a).key j = s.key j := rfl

/-! ## `setDt` -/

@[simp] theorem State.setDt_v (b : Byte) : (s.setDt b).v = s.v := rfl
@[simp] theorem State.setDt_idx (b : Byte) : (s.setDt b).idx = s.idx := rfl
@[simp] theorem State.setDt_pc (b : Byte) : (s.setDt b).pc = s.pc := rfl
@[simp] theorem State.setDt_sp (b : Byte) : (s.setDt b).sp = s.sp := rfl
@[simp] theorem State.setDt_stack (b : Byte) : (s.setDt b).stack = s.stack := rfl
@[simp] theorem State.setDt_dt (b : Byte) : (s.setDt b).dt = b := rfl
@[simp] theorem State.setDt_st (b : Byte) : (s.setDt b).st = s.st := rfl
@[simp] theorem State.setDt_mem (b : Byte) : (s.setDt b).mem = s.mem := rfl
@[simp] theorem State.setDt_fb (b : Byte) : (s.setDt b).fb = s.fb := rfl
@[simp] theorem State.setDt_dirty (b : Byte) : (s.setDt b).dirty = s.dirty := rfl
@[simp] theorem State.setDt_keys (b : Byte) : (s.setDt b).keys = s.keys := rfl
@[simp] theorem State.setDt_halt (b : Byte) : (s.setDt b).halt = s.halt := rfl
@[simp] theorem State.setDt_fault (b : Byte) : (s.setDt b).fault = s.fault := rfl
@[simp] theorem State.setDt_params (b : Byte) : (s.setDt b).params = s.params := rfl
@[simp] theorem State.setDt_draws (b : Byte) : (s.setDt b).draws = s.draws := rfl
@[simp] theorem State.setDt_agenda (b : Byte) : (s.setDt b).agenda = s.agenda := rfl
@[simp] theorem State.setDt_supply (b : Byte) : (s.setDt b).supply = s.supply := rfl
@[simp] theorem State.getV_setDt (b : Byte) (r : Nibble) : (s.setDt b).getV r = s.getV r := rfl
@[simp] theorem State.readByte_setDt (b : Byte) (c : Nat) : (s.setDt b).readByte c = s.readByte c := rfl
@[simp] theorem State.key_setDt (b : Byte) (j : Nibble) : (s.setDt b).key j = s.key j := rfl

/-! ## `setSt` -/

@[simp] theorem State.setSt_v (b : Byte) : (s.setSt b).v = s.v := rfl
@[simp] theorem State.setSt_idx (b : Byte) : (s.setSt b).idx = s.idx := rfl
@[simp] theorem State.setSt_pc (b : Byte) : (s.setSt b).pc = s.pc := rfl
@[simp] theorem State.setSt_sp (b : Byte) : (s.setSt b).sp = s.sp := rfl
@[simp] theorem State.setSt_stack (b : Byte) : (s.setSt b).stack = s.stack := rfl
@[simp] theorem State.setSt_dt (b : Byte) : (s.setSt b).dt = s.dt := rfl
@[simp] theorem State.setSt_st (b : Byte) : (s.setSt b).st = b := rfl
@[simp] theorem State.setSt_mem (b : Byte) : (s.setSt b).mem = s.mem := rfl
@[simp] theorem State.setSt_fb (b : Byte) : (s.setSt b).fb = s.fb := rfl
@[simp] theorem State.setSt_dirty (b : Byte) : (s.setSt b).dirty = s.dirty := rfl
@[simp] theorem State.setSt_keys (b : Byte) : (s.setSt b).keys = s.keys := rfl
@[simp] theorem State.setSt_halt (b : Byte) : (s.setSt b).halt = s.halt := rfl
@[simp] theorem State.setSt_fault (b : Byte) : (s.setSt b).fault = s.fault := rfl
@[simp] theorem State.setSt_params (b : Byte) : (s.setSt b).params = s.params := rfl
@[simp] theorem State.setSt_draws (b : Byte) : (s.setSt b).draws = s.draws := rfl
@[simp] theorem State.setSt_agenda (b : Byte) : (s.setSt b).agenda = s.agenda := rfl
@[simp] theorem State.setSt_supply (b : Byte) : (s.setSt b).supply = s.supply := rfl
@[simp] theorem State.getV_setSt (b : Byte) (r : Nibble) : (s.setSt b).getV r = s.getV r := rfl
@[simp] theorem State.readByte_setSt (b : Byte) (c : Nat) : (s.setSt b).readByte c = s.readByte c := rfl
@[simp] theorem State.key_setSt (b : Byte) (j : Nibble) : (s.setSt b).key j = s.key j := rfl

/-! ## `setDirty` -/

@[simp] theorem State.setDirty_v (d : Bool) : (s.setDirty d).v = s.v := rfl
@[simp] theorem State.setDirty_idx (d : Bool) : (s.setDirty d).idx = s.idx := rfl
@[simp] theorem State.setDirty_pc (d : Bool) : (s.setDirty d).pc = s.pc := rfl
@[simp] theorem State.setDirty_sp (d : Bool) : (s.setDirty d).sp = s.sp := rfl
@[simp] theorem State.setDirty_stack (d : Bool) : (s.setDirty d).stack = s.stack := rfl
@[simp] theorem State.setDirty_dt (d : Bool) : (s.setDirty d).dt = s.dt := rfl
@[simp] theorem State.setDirty_st (d : Bool) : (s.setDirty d).st = s.st := rfl
@[simp] theorem State.setDirty_mem (d : Bool) : (s.setDirty d).mem = s.mem := rfl
@[simp] theorem State.setDirty_fb (d : Bool) : (s.setDirty d).fb = s.fb := rfl
@[simp] theorem State.setDirty_dirty (d : Bool) : (s.setDirty d).dirty = d := rfl
@[simp] theorem State.setDirty_keys (d : Bool) : (s.setDirty d).keys = s.keys := rfl
@[simp] theorem State.setDirty_halt (d : Bool) : (s.setDirty d).halt = s.halt := rfl
@[simp] theorem State.setDirty_fault (d : Bool) : (s.setDirty d).fault = s.fault := rfl
@[simp] theorem State.setDirty_params (d : Bool) : (s.setDirty d).params = s.params := rfl
@[simp] theorem State.setDirty_draws (d : Bool) : (s.setDirty d).draws = s.draws := rfl
@[simp] theorem State.setDirty_agenda (d : Bool) : (s.setDirty d).agenda = s.agenda := rfl
@[simp] theorem State.setDirty_supply (d : Bool) : (s.setDirty d).supply = s.supply := rfl
@[simp] theorem State.getV_setDirty (d : Bool) (r : Nibble) : (s.setDirty d).getV r = s.getV r := rfl
@[simp] theorem State.readByte_setDirty (d : Bool) (c : Nat) : (s.setDirty d).readByte c = s.readByte c := rfl
@[simp] theorem State.key_setDirty (d : Bool) (j : Nibble) : (s.setDirty d).key j = s.key j := rfl

/-! ## `setFb` -/

@[simp] theorem State.setFb_v (f : Framebuffer) : (s.setFb f).v = s.v := rfl
@[simp] theorem State.setFb_idx (f : Framebuffer) : (s.setFb f).idx = s.idx := rfl
@[simp] theorem State.setFb_pc (f : Framebuffer) : (s.setFb f).pc = s.pc := rfl
@[simp] theorem State.setFb_sp (f : Framebuffer) : (s.setFb f).sp = s.sp := rfl
@[simp] theorem State.setFb_stack (f : Framebuffer) : (s.setFb f).stack = s.stack := rfl
@[simp] theorem State.setFb_dt (f : Framebuffer) : (s.setFb f).dt = s.dt := rfl
@[simp] theorem State.setFb_st (f : Framebuffer) : (s.setFb f).st = s.st := rfl
@[simp] theorem State.setFb_mem (f : Framebuffer) : (s.setFb f).mem = s.mem := rfl
@[simp] theorem State.setFb_fb (f : Framebuffer) : (s.setFb f).fb = f := rfl
@[simp] theorem State.setFb_dirty (f : Framebuffer) : (s.setFb f).dirty = s.dirty := rfl
@[simp] theorem State.setFb_keys (f : Framebuffer) : (s.setFb f).keys = s.keys := rfl
@[simp] theorem State.setFb_halt (f : Framebuffer) : (s.setFb f).halt = s.halt := rfl
@[simp] theorem State.setFb_fault (f : Framebuffer) : (s.setFb f).fault = s.fault := rfl
@[simp] theorem State.setFb_params (f : Framebuffer) : (s.setFb f).params = s.params := rfl
@[simp] theorem State.setFb_draws (f : Framebuffer) : (s.setFb f).draws = s.draws := rfl
@[simp] theorem State.setFb_agenda (f : Framebuffer) : (s.setFb f).agenda = s.agenda := rfl
@[simp] theorem State.setFb_supply (f : Framebuffer) : (s.setFb f).supply = s.supply := rfl
@[simp] theorem State.getV_setFb (f : Framebuffer) (r : Nibble) : (s.setFb f).getV r = s.getV r := rfl
@[simp] theorem State.readByte_setFb (f : Framebuffer) (c : Nat) : (s.setFb f).readByte c = s.readByte c := rfl
@[simp] theorem State.key_setFb (f : Framebuffer) (j : Nibble) : (s.setFb f).key j = s.key j := rfl

/-! ## `setMem` -/

@[simp] theorem State.setMem_v (m : Memory) : (s.setMem m).v = s.v := rfl
@[simp] theorem State.setMem_idx (m : Memory) : (s.setMem m).idx = s.idx := rfl
@[simp] theorem State.setMem_pc (m : Memory) : (s.setMem m).pc = s.pc := rfl
@[simp] theorem State.setMem_sp (m : Memory) : (s.setMem m).sp = s.sp := rfl
@[simp] theorem State.setMem_stack (m : Memory) : (s.setMem m).stack = s.stack := rfl
@[simp] theorem State.setMem_dt (m : Memory) : (s.setMem m).dt = s.dt := rfl
@[simp] theorem State.setMem_st (m : Memory) : (s.setMem m).st = s.st := rfl
@[simp] theorem State.setMem_mem (m : Memory) : (s.setMem m).mem = m := rfl
@[simp] theorem State.setMem_fb (m : Memory) : (s.setMem m).fb = s.fb := rfl
@[simp] theorem State.setMem_dirty (m : Memory) : (s.setMem m).dirty = s.dirty := rfl
@[simp] theorem State.setMem_keys (m : Memory) : (s.setMem m).keys = s.keys := rfl
@[simp] theorem State.setMem_halt (m : Memory) : (s.setMem m).halt = s.halt := rfl
@[simp] theorem State.setMem_fault (m : Memory) : (s.setMem m).fault = s.fault := rfl
@[simp] theorem State.setMem_params (m : Memory) : (s.setMem m).params = s.params := rfl
@[simp] theorem State.setMem_draws (m : Memory) : (s.setMem m).draws = s.draws := rfl
@[simp] theorem State.setMem_agenda (m : Memory) : (s.setMem m).agenda = s.agenda := rfl
@[simp] theorem State.setMem_supply (m : Memory) : (s.setMem m).supply = s.supply := rfl
@[simp] theorem State.getV_setMem (m : Memory) (r : Nibble) : (s.setMem m).getV r = s.getV r := rfl
@[simp] theorem State.key_setMem (m : Memory) (j : Nibble) : (s.setMem m).key j = s.key j := rfl

/-! ## `setKey` -/

@[simp] theorem State.setKey_v (k : Nibble) (p : Bool) : (s.setKey k p).v = s.v := rfl
@[simp] theorem State.setKey_idx (k : Nibble) (p : Bool) : (s.setKey k p).idx = s.idx := rfl
@[simp] theorem State.setKey_pc (k : Nibble) (p : Bool) : (s.setKey k p).pc = s.pc := rfl
@[simp] theorem State.setKey_sp (k : Nibble) (p : Bool) : (s.setKey k p).sp = s.sp := rfl
@[simp] theorem State.setKey_stack (k : Nibble) (p : Bool) : (s.setKey k p).stack = s.stack := rfl
@[simp] theorem State.setKey_dt (k : Nibble) (p : Bool) : (s.setKey k p).dt = s.dt := rfl
@[simp] theorem State.setKey_st (k : Nibble) (p : Bool) : (s.setKey k p).st = s.st := rfl
@[simp] theorem State.setKey_mem (k : Nibble) (p : Bool) : (s.setKey k p).mem = s.mem := rfl
@[simp] theorem State.setKey_fb (k : Nibble) (p : Bool) : (s.setKey k p).fb = s.fb := rfl
@[simp] theorem State.setKey_dirty (k : Nibble) (p : Bool) : (s.setKey k p).dirty = s.dirty := rfl
@[simp] theorem State.setKey_keys (k : Nibble) (p : Bool) : (s.setKey k p).keys = s.keys.set k.toNat p := rfl
@[simp] theorem State.setKey_halt (k : Nibble) (p : Bool) : (s.setKey k p).halt = s.halt := rfl
@[simp] theorem State.setKey_fault (k : Nibble) (p : Bool) : (s.setKey k p).fault = s.fault := rfl
@[simp] theorem State.setKey_params (k : Nibble) (p : Bool) : (s.setKey k p).params = s.params := rfl
@[simp] theorem State.setKey_draws (k : Nibble) (p : Bool) : (s.setKey k p).draws = s.draws := rfl
@[simp] theorem State.setKey_agenda (k : Nibble) (p : Bool) : (s.setKey k p).agenda = s.agenda := rfl
@[simp] theorem State.setKey_supply (k : Nibble) (p : Bool) : (s.setKey k p).supply = s.supply := rfl
@[simp] theorem State.getV_setKey (k : Nibble) (p : Bool) (r : Nibble) : (s.setKey k p).getV r = s.getV r := rfl
@[simp] theorem State.readByte_setKey (k : Nibble) (p : Bool) (c : Nat) : (s.setKey k p).readByte c = s.readByte c := rfl

/-! ## `setAgenda` -/

@[simp] theorem State.setAgenda_v (a : List Event) : (s.setAgenda a).v = s.v := rfl
@[simp] theorem State.setAgenda_idx (a : List Event) : (s.setAgenda a).idx = s.idx := rfl
@[simp] theorem State.setAgenda_pc (a : List Event) : (s.setAgenda a).pc = s.pc := rfl
@[simp] theorem State.setAgenda_sp (a : List Event) : (s.setAgenda a).sp = s.sp := rfl
@[simp] theorem State.setAgenda_stack (a : List Event) : (s.setAgenda a).stack = s.stack := rfl
@[simp] theorem State.setAgenda_dt (a : List Event) : (s.setAgenda a).dt = s.dt := rfl
@[simp] theorem State.setAgenda_st (a : List Event) : (s.setAgenda a).st = s.st := rfl
@[simp] theorem State.setAgenda_mem (a : List Event) : (s.setAgenda a).mem = s.mem := rfl
@[simp] theorem State.setAgenda_fb (a : List Event) : (s.setAgenda a).fb = s.fb := rfl
@[simp] theorem State.setAgenda_dirty (a : List Event) : (s.setAgenda a).dirty = s.dirty := rfl
@[simp] theorem State.setAgenda_keys (a : List Event) : (s.setAgenda a).keys = s.keys := rfl
@[simp] theorem State.setAgenda_halt (a : List Event) : (s.setAgenda a).halt = s.halt := rfl
@[simp] theorem State.setAgenda_fault (a : List Event) : (s.setAgenda a).fault = s.fault := rfl
@[simp] theorem State.setAgenda_params (a : List Event) : (s.setAgenda a).params = s.params := rfl
@[simp] theorem State.setAgenda_draws (a : List Event) : (s.setAgenda a).draws = s.draws := rfl
@[simp] theorem State.setAgenda_agenda (a : List Event) : (s.setAgenda a).agenda = a := rfl
@[simp] theorem State.setAgenda_supply (a : List Event) : (s.setAgenda a).supply = s.supply := rfl
@[simp] theorem State.getV_setAgenda (a : List Event) (r : Nibble) : (s.setAgenda a).getV r = s.getV r := rfl
@[simp] theorem State.readByte_setAgenda (a : List Event) (c : Nat) : (s.setAgenda a).readByte c = s.readByte c := rfl
@[simp] theorem State.key_setAgenda (a : List Event) (j : Nibble) : (s.setAgenda a).key j = s.key j := rfl

/-! ## `setSupply` -/

@[simp] theorem State.setSupply_v (o : Option Nat) : (s.setSupply o).v = s.v := rfl
@[simp] theorem State.setSupply_idx (o : Option Nat) : (s.setSupply o).idx = s.idx := rfl
@[simp] theorem State.setSupply_pc (o : Option Nat) : (s.setSupply o).pc = s.pc := rfl
@[simp] theorem State.setSupply_sp (o : Option Nat) : (s.setSupply o).sp = s.sp := rfl
@[simp] theorem State.setSupply_stack (o : Option Nat) : (s.setSupply o).stack = s.stack := rfl
@[simp] theorem State.setSupply_dt (o : Option Nat) : (s.setSupply o).dt = s.dt := rfl
@[simp] theorem State.setSupply_st (o : Option Nat) : (s.setSupply o).st = s.st := rfl
@[simp] theorem State.setSupply_mem (o : Option Nat) : (s.setSupply o).mem = s.mem := rfl
@[simp] theorem State.setSupply_fb (o : Option Nat) : (s.setSupply o).fb = s.fb := rfl
@[simp] theorem State.setSupply_dirty (o : Option Nat) : (s.setSupply o).dirty = s.dirty := rfl
@[simp] theorem State.setSupply_keys (o : Option Nat) : (s.setSupply o).keys = s.keys := rfl
@[simp] theorem State.setSupply_halt (o : Option Nat) : (s.setSupply o).halt = s.halt := rfl
@[simp] theorem State.setSupply_fault (o : Option Nat) : (s.setSupply o).fault = s.fault := rfl
@[simp] theorem State.setSupply_params (o : Option Nat) : (s.setSupply o).params = s.params := rfl
@[simp] theorem State.setSupply_draws (o : Option Nat) : (s.setSupply o).draws = s.draws := rfl
@[simp] theorem State.setSupply_agenda (o : Option Nat) : (s.setSupply o).agenda = s.agenda := rfl
@[simp] theorem State.setSupply_supply (o : Option Nat) : (s.setSupply o).supply = o := rfl
@[simp] theorem State.getV_setSupply (o : Option Nat) (r : Nibble) : (s.setSupply o).getV r = s.getV r := rfl
@[simp] theorem State.readByte_setSupply (o : Option Nat) (c : Nat) : (s.setSupply o).readByte c = s.readByte c := rfl
@[simp] theorem State.key_setSupply (o : Option Nat) (j : Nibble) : (s.setSupply o).key j = s.key j := rfl

/-! ## `raise` -/

@[simp] theorem State.raise_v (f : FaultRecord) : (s.raise f).v = s.v := rfl
@[simp] theorem State.raise_idx (f : FaultRecord) : (s.raise f).idx = s.idx := rfl
@[simp] theorem State.raise_pc (f : FaultRecord) : (s.raise f).pc = s.pc := rfl
@[simp] theorem State.raise_sp (f : FaultRecord) : (s.raise f).sp = s.sp := rfl
@[simp] theorem State.raise_stack (f : FaultRecord) : (s.raise f).stack = s.stack := rfl
@[simp] theorem State.raise_dt (f : FaultRecord) : (s.raise f).dt = s.dt := rfl
@[simp] theorem State.raise_st (f : FaultRecord) : (s.raise f).st = s.st := rfl
@[simp] theorem State.raise_mem (f : FaultRecord) : (s.raise f).mem = s.mem := rfl
@[simp] theorem State.raise_fb (f : FaultRecord) : (s.raise f).fb = s.fb := rfl
@[simp] theorem State.raise_dirty (f : FaultRecord) : (s.raise f).dirty = s.dirty := rfl
@[simp] theorem State.raise_keys (f : FaultRecord) : (s.raise f).keys = s.keys := rfl
@[simp] theorem State.raise_halt (f : FaultRecord) : (s.raise f).halt = true := rfl
@[simp] theorem State.raise_fault (f : FaultRecord) : (s.raise f).fault = f := rfl
@[simp] theorem State.raise_params (f : FaultRecord) : (s.raise f).params = s.params := rfl
@[simp] theorem State.raise_draws (f : FaultRecord) : (s.raise f).draws = s.draws := rfl
@[simp] theorem State.raise_agenda (f : FaultRecord) : (s.raise f).agenda = s.agenda := rfl
@[simp] theorem State.raise_supply (f : FaultRecord) : (s.raise f).supply = s.supply := rfl
@[simp] theorem State.getV_raise (f : FaultRecord) (r : Nibble) : (s.raise f).getV r = s.getV r := rfl
@[simp] theorem State.readByte_raise (f : FaultRecord) (c : Nat) : (s.raise f).readByte c = s.readByte c := rfl
@[simp] theorem State.key_raise (f : FaultRecord) (j : Nibble) : (s.raise f).key j = s.key j := rfl

/-! ## `push` -/

@[simp] theorem State.push_v (a : Word) (h : s.sp.val < 16) : (s.push a h).v = s.v := rfl
@[simp] theorem State.push_idx (a : Word) (h : s.sp.val < 16) : (s.push a h).idx = s.idx := rfl
@[simp] theorem State.push_pc (a : Word) (h : s.sp.val < 16) : (s.push a h).pc = s.pc := rfl
@[simp] theorem State.push_sp (a : Word) (h : s.sp.val < 16) : (s.push a h).sp = ⟨s.sp.val + 1, by omega⟩ := rfl
@[simp] theorem State.push_stack (a : Word) (h : s.sp.val < 16) : (s.push a h).stack = s.stack.set s.sp.val a := rfl
@[simp] theorem State.push_dt (a : Word) (h : s.sp.val < 16) : (s.push a h).dt = s.dt := rfl
@[simp] theorem State.push_st (a : Word) (h : s.sp.val < 16) : (s.push a h).st = s.st := rfl
@[simp] theorem State.push_mem (a : Word) (h : s.sp.val < 16) : (s.push a h).mem = s.mem := rfl
@[simp] theorem State.push_fb (a : Word) (h : s.sp.val < 16) : (s.push a h).fb = s.fb := rfl
@[simp] theorem State.push_dirty (a : Word) (h : s.sp.val < 16) : (s.push a h).dirty = s.dirty := rfl
@[simp] theorem State.push_keys (a : Word) (h : s.sp.val < 16) : (s.push a h).keys = s.keys := rfl
@[simp] theorem State.push_halt (a : Word) (h : s.sp.val < 16) : (s.push a h).halt = s.halt := rfl
@[simp] theorem State.push_fault (a : Word) (h : s.sp.val < 16) : (s.push a h).fault = s.fault := rfl
@[simp] theorem State.push_params (a : Word) (h : s.sp.val < 16) : (s.push a h).params = s.params := rfl
@[simp] theorem State.push_draws (a : Word) (h : s.sp.val < 16) : (s.push a h).draws = s.draws := rfl
@[simp] theorem State.push_agenda (a : Word) (h : s.sp.val < 16) : (s.push a h).agenda = s.agenda := rfl
@[simp] theorem State.push_supply (a : Word) (h : s.sp.val < 16) : (s.push a h).supply = s.supply := rfl
@[simp] theorem State.getV_push (a : Word) (h : s.sp.val < 16) (r : Nibble) : (s.push a h).getV r = s.getV r := rfl
@[simp] theorem State.readByte_push (a : Word) (h : s.sp.val < 16) (c : Nat) : (s.push a h).readByte c = s.readByte c := rfl
@[simp] theorem State.key_push (a : Word) (h : s.sp.val < 16) (j : Nibble) : (s.push a h).key j = s.key j := rfl

/-! ## `countDraw` -/

@[simp] theorem State.countDraw_v : (s.countDraw).v = s.v := rfl
@[simp] theorem State.countDraw_idx : (s.countDraw).idx = s.idx := rfl
@[simp] theorem State.countDraw_pc : (s.countDraw).pc = s.pc := rfl
@[simp] theorem State.countDraw_sp : (s.countDraw).sp = s.sp := rfl
@[simp] theorem State.countDraw_stack : (s.countDraw).stack = s.stack := rfl
@[simp] theorem State.countDraw_dt : (s.countDraw).dt = s.dt := rfl
@[simp] theorem State.countDraw_st : (s.countDraw).st = s.st := rfl
@[simp] theorem State.countDraw_mem : (s.countDraw).mem = s.mem := rfl
@[simp] theorem State.countDraw_fb : (s.countDraw).fb = s.fb := rfl
@[simp] theorem State.countDraw_dirty : (s.countDraw).dirty = s.dirty := rfl
@[simp] theorem State.countDraw_keys : (s.countDraw).keys = s.keys := rfl
@[simp] theorem State.countDraw_halt : (s.countDraw).halt = s.halt := rfl
@[simp] theorem State.countDraw_fault : (s.countDraw).fault = s.fault := rfl
@[simp] theorem State.countDraw_params : (s.countDraw).params = s.params := rfl
@[simp] theorem State.countDraw_draws : (s.countDraw).draws = s.draws + 1 := rfl
@[simp] theorem State.countDraw_agenda : (s.countDraw).agenda = s.agenda := rfl
@[simp] theorem State.countDraw_supply : (s.countDraw).supply = s.supply := rfl
@[simp] theorem State.getV_countDraw (r : Nibble) : (s.countDraw).getV r = s.getV r := rfl
@[simp] theorem State.readByte_countDraw (c : Nat) : (s.countDraw).readByte c = s.readByte c := rfl
@[simp] theorem State.key_countDraw (j : Nibble) : (s.countDraw).key j = s.key j := rfl

/-! ## `popSp` -/

@[simp] theorem State.popSp_v : (s.popSp).v = s.v := rfl
@[simp] theorem State.popSp_idx : (s.popSp).idx = s.idx := rfl
@[simp] theorem State.popSp_pc : (s.popSp).pc = s.pc := rfl
@[simp] theorem State.popSp_sp : (s.popSp).sp = ⟨s.sp.val - 1, by omega⟩ := rfl
@[simp] theorem State.popSp_stack : (s.popSp).stack = s.stack := rfl
@[simp] theorem State.popSp_dt : (s.popSp).dt = s.dt := rfl
@[simp] theorem State.popSp_st : (s.popSp).st = s.st := rfl
@[simp] theorem State.popSp_mem : (s.popSp).mem = s.mem := rfl
@[simp] theorem State.popSp_fb : (s.popSp).fb = s.fb := rfl
@[simp] theorem State.popSp_dirty : (s.popSp).dirty = s.dirty := rfl
@[simp] theorem State.popSp_keys : (s.popSp).keys = s.keys := rfl
@[simp] theorem State.popSp_halt : (s.popSp).halt = s.halt := rfl
@[simp] theorem State.popSp_fault : (s.popSp).fault = s.fault := rfl
@[simp] theorem State.popSp_params : (s.popSp).params = s.params := rfl
@[simp] theorem State.popSp_draws : (s.popSp).draws = s.draws := rfl
@[simp] theorem State.popSp_agenda : (s.popSp).agenda = s.agenda := rfl
@[simp] theorem State.popSp_supply : (s.popSp).supply = s.supply := rfl
@[simp] theorem State.getV_popSp (r : Nibble) : (s.popSp).getV r = s.getV r := rfl
@[simp] theorem State.readByte_popSp (c : Nat) : (s.popSp).readByte c = s.readByte c := rfl
@[simp] theorem State.key_popSp (j : Nibble) : (s.popSp).key j = s.key j := rfl

/-! ## Accessors after their own update -/

/-- A register read after a register write. -/
theorem State.getV_setV (x : Nibble) (b : Byte) (r : Nibble) : (s.setV x b).getV r = if r = x then b else s.getV r := by
  have hx : x.toNat < 16 := x.isLt
  have hr : r.toNat < 16 := r.isLt
  simp only [State.getV, State.setV, Vector.getElem_set, BitVec.toNat_inj, eq_comm]

@[simp] theorem State.getV_setV_same (x : Nibble) (b : Byte) : (s.setV x b).getV x = b := by
  simp [State.getV_setV]

@[simp] theorem State.getV_setV_ne (x : Nibble) (b : Byte) {r : Nibble} (h : r ≠ x) :
    (s.setV x b).getV r = s.getV r := by
  simp [State.getV_setV, h]

/-- A key read after a key event. -/
theorem State.key_setKey (k : Nibble) (p : Bool) (j : Nibble) : (s.setKey k p).key j = if j = k then p else s.key j := by
  have hk : k.toNat < 16 := k.isLt
  have hj : j.toNat < 16 := j.isLt
  simp only [State.key, State.setKey, Vector.getElem_set, BitVec.toNat_inj, eq_comm]

/-- The slot a push writes, and every other slot. -/
theorem State.stack_push (a : Word) (h : s.sp.val < 16) (j : Fin 16) :
    (s.push a h).stack[j] = if j.val = s.sp.val then a else s.stack[j] := by
  simp only [State.push, Fin.getElem_fin, Vector.getElem_set, eq_comm]

/-- Two registers files with the same sixteen registers are the same. -/
theorem State.v_ext {s t : State} (h : ∀ r, t.getV r = s.getV r) : t.v = s.v := by
  apply Vector.ext
  intro i hi
  simpa [State.getV, Nat.mod_eq_of_lt hi] using h (BitVec.ofNat 4 i)

end Sys2Proof.Machine
end

