-- ==== Sys2Proof/Laws/Memory.lean ====
section
/-! SUPPORT. Laws of memory: a read after a write, and the canonical form kept by every memory operation. -/

namespace Sys2Proof.Machine

variable (p : Config.Params)

/-! ## Read after write -/

theorem Memory.read_erase (m : Memory) {a c : Nat} (h : c ≠ a) : Memory.read p (m.erase a) c = Memory.read p m c := by
  induction m with
  | nil => rfl
  | cons e m ih =>
    obtain ⟨b, w⟩ := e
    simp only [Memory.erase] at ih ⊢
    by_cases hb : b = a
    · subst hb
      simp [Memory.read, h, ih]
    · simp [Memory.read, hb, ih]

theorem Memory.read_erase_same (m : Memory) (a : Nat) : Memory.read p (m.erase a) a = resetByte p a := by
  induction m with
  | nil => rfl
  | cons e m ih =>
    obtain ⟨b, w⟩ := e
    simp only [Memory.erase] at ih ⊢
    by_cases hb : b = a
    · simp [hb, ih]
    · simp [Memory.read, hb, ih, Ne.symm hb]

theorem Memory.read_insert (m : Memory) (a : Nat) (b : Byte) (c : Nat) (h : ∀ e ∈ m, e.1 ≠ a) :
    Memory.read p (Memory.insert a b m) c = if c = a then b else Memory.read p m c := by
  induction m with
  | nil => rfl
  | cons e m ih =>
    obtain ⟨d, w⟩ := e
    have hd : d ≠ a := h (d, w) (by simp)
    have ih := ih (fun e he => h e (by simp [he]))
    simp only [Memory.insert]
    by_cases had : a < d
    · simp [had, Memory.read]
    · simp only [had, if_false, Memory.read, ih]
      by_cases hcd : c = d
      · simp [hcd, hd]
      · simp [hcd]

theorem Memory.erase_no_entry (m : Memory) (a : Nat) : ∀ e ∈ m.erase a, e.1 ≠ a := by
  intro e he
  simpa using (List.mem_filter.mp he).2

/-- A read after a write: the byte written at its address, and every other byte as before. -/
theorem Memory.read_write (m : Memory) (a : Nat) (b : Byte) (c : Nat) :
    Memory.read p (Memory.write p m a b) c = if c = a then b else Memory.read p m c := by
  unfold Memory.write
  by_cases hb : b = resetByte p a
  · by_cases hc : c = a
    · simp [hb, hc, Memory.read_erase_same]
    · simp [hb, hc, Memory.read_erase]
  · rw [if_neg hb, Memory.read_insert p _ _ _ _ (Memory.erase_no_entry m a)]
    by_cases hc : c = a
    · simp [hc]
    · simp [hc, Memory.read_erase]

/-! ## The canonical form -/

theorem Memory.wfFrom_mono {lo lo' : Nat} (h : lo' ≤ lo) {m : Memory} (hm : Memory.wfFrom p lo m = true) :
    Memory.wfFrom p lo' m = true := by
  cases m with
  | nil => rfl
  | cons e m =>
    obtain ⟨a, b⟩ := e
    simp only [Memory.wfFrom, Bool.and_eq_true, decide_eq_true_eq] at hm ⊢
    exact ⟨⟨⟨by omega, hm.1.1.2⟩, hm.1.2⟩, hm.2⟩

theorem Memory.wfFrom_erase {lo : Nat} {m : Memory} (a : Nat) (hm : Memory.wfFrom p lo m = true) :
    Memory.wfFrom p lo (m.erase a) = true := by
  induction m generalizing lo with
  | nil => rfl
  | cons e m ih =>
    obtain ⟨c, w⟩ := e
    simp only [Memory.wfFrom, Bool.and_eq_true, decide_eq_true_eq] at hm
    have ih := ih hm.2
    simp only [Memory.erase] at ih ⊢
    by_cases hc : c = a
    · simpa [hc] using Memory.wfFrom_mono p (by omega) (hc ▸ ih)
    · simpa [hc, Memory.wfFrom, hm.1] using ih

theorem Memory.wfFrom_insert {lo a : Nat} {b : Byte} {m : Memory} (hlo : lo ≤ a) (ha : a < Config.memSize)
    (hb : b ≠ resetByte p a) (hne : ∀ e ∈ m, e.1 ≠ a) (hm : Memory.wfFrom p lo m = true) :
    Memory.wfFrom p lo (Memory.insert a b m) = true := by
  induction m generalizing lo with
  | nil => simp [Memory.insert, Memory.wfFrom, hlo, ha, hb]
  | cons e m ih =>
    obtain ⟨c, w⟩ := e
    have hca : c ≠ a := hne (c, w) (by simp)
    simp only [Memory.wfFrom, Bool.and_eq_true, decide_eq_true_eq] at hm
    simp only [Memory.insert]
    by_cases hac : a < c
    · simp [hac, Memory.wfFrom, hlo, ha, hb, hm.1.1.2, hm.1.2, hm.2, Nat.succ_le_of_lt hac]
    · have := ih (lo := c + 1) (by omega) (fun e he => hne e (by simp [he])) hm.2
      simp [hac, Memory.wfFrom, hm.1, this]

/-- A write inside memory keeps the canonical form. -/
theorem Memory.wf_write {m : Memory} {a : Nat} (b : Byte) (hm : Memory.wf p m = true) (ha : a < Config.memSize) :
    Memory.wf p (Memory.write p m a b) = true := by
  unfold Memory.write
  by_cases hb : b = resetByte p a
  · rw [if_pos hb]
    exact Memory.wfFrom_erase p a hm
  · rw [if_neg hb]
    exact Memory.wfFrom_insert p (Nat.zero_le a) ha hb (Memory.erase_no_entry m a) (Memory.wfFrom_erase p a hm)

/-- Memory with nothing listed has the canonical form. -/
theorem Memory.wf_nil : Memory.wf p [] = true := rfl

/-! ## Bytes of a state -/

variable (s : State)

/-- A byte read after a byte written. -/
theorem State.readByte_writeByte (a : Nat) (b : Byte) (c : Nat) :
    (s.writeByte a b).readByte c = if c = a then b else s.readByte c := by
  simp [State.writeByte, State.readByte, Memory.read_write]

/-- Bytes written at rising addresses: the written range holds them, every other byte is as before. -/
theorem State.readByte_writeBytes (a : Nat) (bs : List Byte) (c : Nat) :
    (s.writeBytes a bs).readByte c = if h : a ≤ c ∧ c - a < bs.length then bs[c - a]'h.2 else s.readByte c := by
  induction bs generalizing s a with
  | nil => simp [State.writeBytes]
  | cons b bs ih =>
    simp only [State.writeBytes, ih, State.readByte_writeByte]
    by_cases h1 : a + 1 ≤ c ∧ c - (a + 1) < bs.length
    · have h2 : a ≤ c ∧ c - a < (b :: bs).length := by simp only [List.length_cons]; omega
      have h3 : c - a = (c - (a + 1)) + 1 := by omega
      rw [dif_pos h1, dif_pos h2]
      simp only [h3, List.getElem_cons_succ]
    · simp only [dif_neg h1]
      by_cases hc : c = a
      · subst hc
        simp
      · have h2 : ¬ (a ≤ c ∧ c - a < (b :: bs).length) := by simp only [List.length_cons]; omega
        simp only [hc, if_false, dif_neg h2]

/-- The `k`-th byte written. -/
theorem State.readByte_writeBytes_inside (a : Nat) (bs : List Byte) (k : Nat) (h : k < bs.length) :
    (s.writeBytes a bs).readByte (a + k) = bs[k] := by
  rw [State.readByte_writeBytes, dif_pos ⟨Nat.le_add_right a k, by omega⟩]
  simp

/-- A byte outside the written range. -/
theorem State.readByte_writeBytes_outside (a : Nat) (bs : List Byte) (c : Nat) (h : c < a ∨ a + bs.length ≤ c) :
    (s.writeBytes a bs).readByte c = s.readByte c := by
  rw [State.readByte_writeBytes, dif_neg (by omega)]

/-- Writing bytes changes memory and nothing else. -/
theorem State.writeBytes_eq (a : Nat) (bs : List Byte) : ∃ m, s.writeBytes a bs = s.setMem m := by
  induction bs generalizing s a with
  | nil => exact ⟨s.mem, rfl⟩
  | cons b bs ih =>
    obtain ⟨m, hm⟩ := ih (s.writeByte a b) (a + 1)
    exact ⟨m, by rw [State.writeBytes, hm]; rfl⟩

/-- Writing bytes inside memory keeps the canonical form. -/
theorem State.wf_writeBytes (a : Nat) (bs : List Byte) (hs : Memory.wf s.params s.mem = true)
    (h : bs.length = 0 ∨ a + bs.length ≤ Config.memSize) :
    Memory.wf s.params (s.writeBytes a bs).mem = true := by
  induction bs generalizing s a with
  | nil => exact hs
  | cons b bs ih =>
    simp only [List.length_cons] at h
    have h1 : Memory.wf s.params (s.writeByte a b).mem = true := Memory.wf_write s.params b hs (by omega)
    exact ih (s.writeByte a b) (a + 1) h1 (by omega)

end Sys2Proof.Machine
end

