-- ==== Sys2Proof/Laws/Ops.lean ====
section
/-! SUPPORT. One law for each shared operation of Machine/Ops.lean, Operands.lean and Flags.lean: what it does to each
field and accessor. -/

namespace Sys2Proof.Machine

variable (s : State)

/-! ## `advance` -/

@[simp] theorem State.advance_v : (s.advance).v = s.v := rfl
@[simp] theorem State.advance_idx : (s.advance).idx = s.idx := rfl
@[simp] theorem State.advance_pc : (s.advance).pc = s.pc + 2 := rfl
@[simp] theorem State.advance_sp : (s.advance).sp = s.sp := rfl
@[simp] theorem State.advance_stack : (s.advance).stack = s.stack := rfl
@[simp] theorem State.advance_dt : (s.advance).dt = s.dt := rfl
@[simp] theorem State.advance_st : (s.advance).st = s.st := rfl
@[simp] theorem State.advance_mem : (s.advance).mem = s.mem := rfl
@[simp] theorem State.advance_fb : (s.advance).fb = s.fb := rfl
@[simp] theorem State.advance_dirty : (s.advance).dirty = s.dirty := rfl
@[simp] theorem State.advance_keys : (s.advance).keys = s.keys := rfl
@[simp] theorem State.advance_halt : (s.advance).halt = s.halt := rfl
@[simp] theorem State.advance_fault : (s.advance).fault = s.fault := rfl
@[simp] theorem State.advance_params : (s.advance).params = s.params := rfl
@[simp] theorem State.advance_draws : (s.advance).draws = s.draws := rfl
@[simp] theorem State.advance_agenda : (s.advance).agenda = s.agenda := rfl
@[simp] theorem State.advance_supply : (s.advance).supply = s.supply := rfl
@[simp] theorem State.getV_advance (r : Nibble) : (s.advance).getV r = s.getV r := rfl
@[simp] theorem State.readByte_advance (c : Nat) : (s.advance).readByte c = s.readByte c := rfl
@[simp] theorem State.key_advance (j : Nibble) : (s.advance).key j = s.key j := rfl

/-! ## `skipIf` -/

@[simp] theorem State.skipIf_v (c : Bool) : (s.skipIf c).v = s.v := rfl
@[simp] theorem State.skipIf_idx (c : Bool) : (s.skipIf c).idx = s.idx := rfl
@[simp] theorem State.skipIf_pc (c : Bool) : (s.skipIf c).pc = if c then s.pc + 4 else s.pc + 2 := rfl
@[simp] theorem State.skipIf_sp (c : Bool) : (s.skipIf c).sp = s.sp := rfl
@[simp] theorem State.skipIf_stack (c : Bool) : (s.skipIf c).stack = s.stack := rfl
@[simp] theorem State.skipIf_dt (c : Bool) : (s.skipIf c).dt = s.dt := rfl
@[simp] theorem State.skipIf_st (c : Bool) : (s.skipIf c).st = s.st := rfl
@[simp] theorem State.skipIf_mem (c : Bool) : (s.skipIf c).mem = s.mem := rfl
@[simp] theorem State.skipIf_fb (c : Bool) : (s.skipIf c).fb = s.fb := rfl
@[simp] theorem State.skipIf_dirty (c : Bool) : (s.skipIf c).dirty = s.dirty := rfl
@[simp] theorem State.skipIf_keys (c : Bool) : (s.skipIf c).keys = s.keys := rfl
@[simp] theorem State.skipIf_halt (c : Bool) : (s.skipIf c).halt = s.halt := rfl
@[simp] theorem State.skipIf_fault (c : Bool) : (s.skipIf c).fault = s.fault := rfl
@[simp] theorem State.skipIf_params (c : Bool) : (s.skipIf c).params = s.params := rfl
@[simp] theorem State.skipIf_draws (c : Bool) : (s.skipIf c).draws = s.draws := rfl
@[simp] theorem State.skipIf_agenda (c : Bool) : (s.skipIf c).agenda = s.agenda := rfl
@[simp] theorem State.skipIf_supply (c : Bool) : (s.skipIf c).supply = s.supply := rfl
@[simp] theorem State.getV_skipIf (c : Bool) (r : Nibble) : (s.skipIf c).getV r = s.getV r := rfl
@[simp] theorem State.readByte_skipIf (c : Bool) (a : Nat) : (s.skipIf c).readByte a = s.readByte a := rfl
@[simp] theorem State.key_skipIf (c : Bool) (j : Nibble) : (s.skipIf c).key j = s.key j := rfl

/-- Using up the due event changes the agenda or the supply and nothing else. -/
theorem State.consume_eq : ∃ a o, s.consume = (s.setAgenda a).setSupply o := by
  unfold State.consume
  split
  · rename_i rest _
    exact ⟨rest, s.supply, rfl⟩
  · exact ⟨s.agenda, s.supply.map (· + 1), rfl⟩

theorem State.due_cons {e : Config.Event} {rest : List Config.Event} (h : s.agenda = e :: rest) : s.due = some e := by
  simp [State.due, h]

theorem State.due_nil (h : s.agenda = []) : s.due = s.supply.map Config.schedule := by
  simp [State.due, h]

/-! ## `consume` -/

@[simp] theorem State.consume_v : (s.consume).v = s.v := by obtain ⟨a, o, h⟩ := s.consume_eq; rw [h]; rfl
@[simp] theorem State.consume_idx : (s.consume).idx = s.idx := by obtain ⟨a, o, h⟩ := s.consume_eq; rw [h]; rfl
@[simp] theorem State.consume_pc : (s.consume).pc = s.pc := by obtain ⟨a, o, h⟩ := s.consume_eq; rw [h]; rfl
@[simp] theorem State.consume_sp : (s.consume).sp = s.sp := by obtain ⟨a, o, h⟩ := s.consume_eq; rw [h]; rfl
@[simp] theorem State.consume_stack : (s.consume).stack = s.stack := by obtain ⟨a, o, h⟩ := s.consume_eq; rw [h]; rfl
@[simp] theorem State.consume_dt : (s.consume).dt = s.dt := by obtain ⟨a, o, h⟩ := s.consume_eq; rw [h]; rfl
@[simp] theorem State.consume_st : (s.consume).st = s.st := by obtain ⟨a, o, h⟩ := s.consume_eq; rw [h]; rfl
@[simp] theorem State.consume_mem : (s.consume).mem = s.mem := by obtain ⟨a, o, h⟩ := s.consume_eq; rw [h]; rfl
@[simp] theorem State.consume_fb : (s.consume).fb = s.fb := by obtain ⟨a, o, h⟩ := s.consume_eq; rw [h]; rfl
@[simp] theorem State.consume_dirty : (s.consume).dirty = s.dirty := by obtain ⟨a, o, h⟩ := s.consume_eq; rw [h]; rfl
@[simp] theorem State.consume_keys : (s.consume).keys = s.keys := by obtain ⟨a, o, h⟩ := s.consume_eq; rw [h]; rfl
@[simp] theorem State.consume_halt : (s.consume).halt = s.halt := by obtain ⟨a, o, h⟩ := s.consume_eq; rw [h]; rfl
@[simp] theorem State.consume_fault : (s.consume).fault = s.fault := by obtain ⟨a, o, h⟩ := s.consume_eq; rw [h]; rfl
@[simp] theorem State.consume_params : (s.consume).params = s.params := by obtain ⟨a, o, h⟩ := s.consume_eq; rw [h]; rfl
@[simp] theorem State.consume_draws : (s.consume).draws = s.draws := by obtain ⟨a, o, h⟩ := s.consume_eq; rw [h]; rfl
@[simp] theorem State.getV_consume (r : Nibble) : (s.consume).getV r = s.getV r := by obtain ⟨a, o, h⟩ := s.consume_eq; rw [h]; rfl
@[simp] theorem State.readByte_consume (c : Nat) : (s.consume).readByte c = s.readByte c := by obtain ⟨a, o, h⟩ := s.consume_eq; rw [h]; rfl
@[simp] theorem State.key_consume (j : Nibble) : (s.consume).key j = s.key j := by obtain ⟨a, o, h⟩ := s.consume_eq; rw [h]; rfl

/-! ## `setFlag` -/

@[simp] theorem State.setFlag_idx (f : Bool) : (s.setFlag f).idx = s.idx := rfl
@[simp] theorem State.setFlag_pc (f : Bool) : (s.setFlag f).pc = s.pc := rfl
@[simp] theorem State.setFlag_sp (f : Bool) : (s.setFlag f).sp = s.sp := rfl
@[simp] theorem State.setFlag_stack (f : Bool) : (s.setFlag f).stack = s.stack := rfl
@[simp] theorem State.setFlag_dt (f : Bool) : (s.setFlag f).dt = s.dt := rfl
@[simp] theorem State.setFlag_st (f : Bool) : (s.setFlag f).st = s.st := rfl
@[simp] theorem State.setFlag_mem (f : Bool) : (s.setFlag f).mem = s.mem := rfl
@[simp] theorem State.setFlag_fb (f : Bool) : (s.setFlag f).fb = s.fb := rfl
@[simp] theorem State.setFlag_dirty (f : Bool) : (s.setFlag f).dirty = s.dirty := rfl
@[simp] theorem State.setFlag_keys (f : Bool) : (s.setFlag f).keys = s.keys := rfl
@[simp] theorem State.setFlag_halt (f : Bool) : (s.setFlag f).halt = s.halt := rfl
@[simp] theorem State.setFlag_fault (f : Bool) : (s.setFlag f).fault = s.fault := rfl
@[simp] theorem State.setFlag_params (f : Bool) : (s.setFlag f).params = s.params := rfl
@[simp] theorem State.setFlag_draws (f : Bool) : (s.setFlag f).draws = s.draws := rfl
@[simp] theorem State.setFlag_agenda (f : Bool) : (s.setFlag f).agenda = s.agenda := rfl
@[simp] theorem State.setFlag_supply (f : Bool) : (s.setFlag f).supply = s.supply := rfl
@[simp] theorem State.readByte_setFlag (f : Bool) (c : Nat) : (s.setFlag f).readByte c = s.readByte c := rfl
@[simp] theorem State.key_setFlag (f : Bool) (j : Nibble) : (s.setFlag f).key j = s.key j := rfl

theorem State.getV_setFlag (f : Bool) (r : Nibble) :
    (s.setFlag f).getV r = if r = vf then (if f then 1 else 0) else s.getV r := by
  rw [State.setFlag, State.getV_setV]

/-! ## `setFlagThenV` -/

@[simp] theorem State.setFlagThenV_idx (f : Bool) (x : Nibble) (b : Byte) : (s.setFlagThenV f x b).idx = s.idx := rfl
@[simp] theorem State.setFlagThenV_pc (f : Bool) (x : Nibble) (b : Byte) : (s.setFlagThenV f x b).pc = s.pc := rfl
@[simp] theorem State.setFlagThenV_sp (f : Bool) (x : Nibble) (b : Byte) : (s.setFlagThenV f x b).sp = s.sp := rfl
@[simp] theorem State.setFlagThenV_stack (f : Bool) (x : Nibble) (b : Byte) : (s.setFlagThenV f x b).stack = s.stack := rfl
@[simp] theorem State.setFlagThenV_dt (f : Bool) (x : Nibble) (b : Byte) : (s.setFlagThenV f x b).dt = s.dt := rfl
@[simp] theorem State.setFlagThenV_st (f : Bool) (x : Nibble) (b : Byte) : (s.setFlagThenV f x b).st = s.st := rfl
@[simp] theorem State.setFlagThenV_mem (f : Bool) (x : Nibble) (b : Byte) : (s.setFlagThenV f x b).mem = s.mem := rfl
@[simp] theorem State.setFlagThenV_fb (f : Bool) (x : Nibble) (b : Byte) : (s.setFlagThenV f x b).fb = s.fb := rfl
@[simp] theorem State.setFlagThenV_dirty (f : Bool) (x : Nibble) (b : Byte) : (s.setFlagThenV f x b).dirty = s.dirty := rfl
@[simp] theorem State.setFlagThenV_keys (f : Bool) (x : Nibble) (b : Byte) : (s.setFlagThenV f x b).keys = s.keys := rfl
@[simp] theorem State.setFlagThenV_halt (f : Bool) (x : Nibble) (b : Byte) : (s.setFlagThenV f x b).halt = s.halt := rfl
@[simp] theorem State.setFlagThenV_fault (f : Bool) (x : Nibble) (b : Byte) : (s.setFlagThenV f x b).fault = s.fault := rfl
@[simp] theorem State.setFlagThenV_params (f : Bool) (x : Nibble) (b : Byte) : (s.setFlagThenV f x b).params = s.params := rfl
@[simp] theorem State.setFlagThenV_draws (f : Bool) (x : Nibble) (b : Byte) : (s.setFlagThenV f x b).draws = s.draws := rfl
@[simp] theorem State.setFlagThenV_agenda (f : Bool) (x : Nibble) (b : Byte) : (s.setFlagThenV f x b).agenda = s.agenda := rfl
@[simp] theorem State.setFlagThenV_supply (f : Bool) (x : Nibble) (b : Byte) : (s.setFlagThenV f x b).supply = s.supply := rfl
@[simp] theorem State.readByte_setFlagThenV (f : Bool) (x : Nibble) (b : Byte) (c : Nat) : (s.setFlagThenV f x b).readByte c = s.readByte c := rfl
@[simp] theorem State.key_setFlagThenV (f : Bool) (x : Nibble) (b : Byte) (j : Nibble) : (s.setFlagThenV f x b).key j = s.key j := rfl

/-- The result wins where the destination is VF (R170). -/
theorem State.getV_setFlagThenV (f : Bool) (x : Nibble) (b : Byte) (r : Nibble) :
    (s.setFlagThenV f x b).getV r = if r = x then b else if r = vf then (if f then 1 else 0) else s.getV r := by
  rw [State.setFlagThenV, State.getV_setV, State.getV_setFlag]

/-! ## `writeByte` -/

@[simp] theorem State.writeByte_v (a : Nat) (b : Byte) : (s.writeByte a b).v = s.v := rfl
@[simp] theorem State.writeByte_idx (a : Nat) (b : Byte) : (s.writeByte a b).idx = s.idx := rfl
@[simp] theorem State.writeByte_pc (a : Nat) (b : Byte) : (s.writeByte a b).pc = s.pc := rfl
@[simp] theorem State.writeByte_sp (a : Nat) (b : Byte) : (s.writeByte a b).sp = s.sp := rfl
@[simp] theorem State.writeByte_stack (a : Nat) (b : Byte) : (s.writeByte a b).stack = s.stack := rfl
@[simp] theorem State.writeByte_dt (a : Nat) (b : Byte) : (s.writeByte a b).dt = s.dt := rfl
@[simp] theorem State.writeByte_st (a : Nat) (b : Byte) : (s.writeByte a b).st = s.st := rfl
@[simp] theorem State.writeByte_fb (a : Nat) (b : Byte) : (s.writeByte a b).fb = s.fb := rfl
@[simp] theorem State.writeByte_dirty (a : Nat) (b : Byte) : (s.writeByte a b).dirty = s.dirty := rfl
@[simp] theorem State.writeByte_keys (a : Nat) (b : Byte) : (s.writeByte a b).keys = s.keys := rfl
@[simp] theorem State.writeByte_halt (a : Nat) (b : Byte) : (s.writeByte a b).halt = s.halt := rfl
@[simp] theorem State.writeByte_fault (a : Nat) (b : Byte) : (s.writeByte a b).fault = s.fault := rfl
@[simp] theorem State.writeByte_params (a : Nat) (b : Byte) : (s.writeByte a b).params = s.params := rfl
@[simp] theorem State.writeByte_draws (a : Nat) (b : Byte) : (s.writeByte a b).draws = s.draws := rfl
@[simp] theorem State.writeByte_agenda (a : Nat) (b : Byte) : (s.writeByte a b).agenda = s.agenda := rfl
@[simp] theorem State.writeByte_supply (a : Nat) (b : Byte) : (s.writeByte a b).supply = s.supply := rfl
@[simp] theorem State.getV_writeByte (a : Nat) (b : Byte) (r : Nibble) : (s.writeByte a b).getV r = s.getV r := rfl
@[simp] theorem State.key_writeByte (a : Nat) (b : Byte) (j : Nibble) : (s.writeByte a b).key j = s.key j := rfl

/-! ## `writeBytes` -/

@[simp] theorem State.writeBytes_v (a : Nat) (bs : List Byte) : (s.writeBytes a bs).v = s.v := by obtain ⟨m, h⟩ := s.writeBytes_eq a bs; rw [h]; rfl
@[simp] theorem State.writeBytes_idx (a : Nat) (bs : List Byte) : (s.writeBytes a bs).idx = s.idx := by obtain ⟨m, h⟩ := s.writeBytes_eq a bs; rw [h]; rfl
@[simp] theorem State.writeBytes_pc (a : Nat) (bs : List Byte) : (s.writeBytes a bs).pc = s.pc := by obtain ⟨m, h⟩ := s.writeBytes_eq a bs; rw [h]; rfl
@[simp] theorem State.writeBytes_sp (a : Nat) (bs : List Byte) : (s.writeBytes a bs).sp = s.sp := by obtain ⟨m, h⟩ := s.writeBytes_eq a bs; rw [h]; rfl
@[simp] theorem State.writeBytes_stack (a : Nat) (bs : List Byte) : (s.writeBytes a bs).stack = s.stack := by obtain ⟨m, h⟩ := s.writeBytes_eq a bs; rw [h]; rfl
@[simp] theorem State.writeBytes_dt (a : Nat) (bs : List Byte) : (s.writeBytes a bs).dt = s.dt := by obtain ⟨m, h⟩ := s.writeBytes_eq a bs; rw [h]; rfl
@[simp] theorem State.writeBytes_st (a : Nat) (bs : List Byte) : (s.writeBytes a bs).st = s.st := by obtain ⟨m, h⟩ := s.writeBytes_eq a bs; rw [h]; rfl
@[simp] theorem State.writeBytes_fb (a : Nat) (bs : List Byte) : (s.writeBytes a bs).fb = s.fb := by obtain ⟨m, h⟩ := s.writeBytes_eq a bs; rw [h]; rfl
@[simp] theorem State.writeBytes_dirty (a : Nat) (bs : List Byte) : (s.writeBytes a bs).dirty = s.dirty := by obtain ⟨m, h⟩ := s.writeBytes_eq a bs; rw [h]; rfl
@[simp] theorem State.writeBytes_keys (a : Nat) (bs : List Byte) : (s.writeBytes a bs).keys = s.keys := by obtain ⟨m, h⟩ := s.writeBytes_eq a bs; rw [h]; rfl
@[simp] theorem State.writeBytes_halt (a : Nat) (bs : List Byte) : (s.writeBytes a bs).halt = s.halt := by obtain ⟨m, h⟩ := s.writeBytes_eq a bs; rw [h]; rfl
@[simp] theorem State.writeBytes_fault (a : Nat) (bs : List Byte) : (s.writeBytes a bs).fault = s.fault := by obtain ⟨m, h⟩ := s.writeBytes_eq a bs; rw [h]; rfl
@[simp] theorem State.writeBytes_params (a : Nat) (bs : List Byte) : (s.writeBytes a bs).params = s.params := by obtain ⟨m, h⟩ := s.writeBytes_eq a bs; rw [h]; rfl
@[simp] theorem State.writeBytes_draws (a : Nat) (bs : List Byte) : (s.writeBytes a bs).draws = s.draws := by obtain ⟨m, h⟩ := s.writeBytes_eq a bs; rw [h]; rfl
@[simp] theorem State.writeBytes_agenda (a : Nat) (bs : List Byte) : (s.writeBytes a bs).agenda = s.agenda := by obtain ⟨m, h⟩ := s.writeBytes_eq a bs; rw [h]; rfl
@[simp] theorem State.writeBytes_supply (a : Nat) (bs : List Byte) : (s.writeBytes a bs).supply = s.supply := by obtain ⟨m, h⟩ := s.writeBytes_eq a bs; rw [h]; rfl
@[simp] theorem State.getV_writeBytes (a : Nat) (bs : List Byte) (r : Nibble) : (s.writeBytes a bs).getV r = s.getV r := by obtain ⟨m, h⟩ := s.writeBytes_eq a bs; rw [h]; rfl
@[simp] theorem State.key_writeBytes (a : Nat) (bs : List Byte) (j : Nibble) : (s.writeBytes a bs).key j = s.key j := by obtain ⟨m, h⟩ := s.writeBytes_eq a bs; rw [h]; rfl

/-- Loading registers changes registers and nothing else. -/
theorem State.loadFirst_eq (a n : Nat) : ∃ v, s.loadFirst a n = { s with v := v } := by
  induction n with
  | zero => exact ⟨s.v, rfl⟩
  | succ n ih =>
    obtain ⟨v, h⟩ := ih
    exact ⟨_, by rw [State.loadFirst, h]; rfl⟩

/-! ## `loadFirst` -/

@[simp] theorem State.loadFirst_idx (a n : Nat) : (s.loadFirst a n).idx = s.idx := by obtain ⟨w, h⟩ := s.loadFirst_eq a n; rw [h]; try rfl
@[simp] theorem State.loadFirst_pc (a n : Nat) : (s.loadFirst a n).pc = s.pc := by obtain ⟨w, h⟩ := s.loadFirst_eq a n; rw [h]; try rfl
@[simp] theorem State.loadFirst_sp (a n : Nat) : (s.loadFirst a n).sp = s.sp := by obtain ⟨w, h⟩ := s.loadFirst_eq a n; rw [h]; try rfl
@[simp] theorem State.loadFirst_stack (a n : Nat) : (s.loadFirst a n).stack = s.stack := by obtain ⟨w, h⟩ := s.loadFirst_eq a n; rw [h]; try rfl
@[simp] theorem State.loadFirst_dt (a n : Nat) : (s.loadFirst a n).dt = s.dt := by obtain ⟨w, h⟩ := s.loadFirst_eq a n; rw [h]; try rfl
@[simp] theorem State.loadFirst_st (a n : Nat) : (s.loadFirst a n).st = s.st := by obtain ⟨w, h⟩ := s.loadFirst_eq a n; rw [h]; try rfl
@[simp] theorem State.loadFirst_mem (a n : Nat) : (s.loadFirst a n).mem = s.mem := by obtain ⟨w, h⟩ := s.loadFirst_eq a n; rw [h]; try rfl
@[simp] theorem State.loadFirst_fb (a n : Nat) : (s.loadFirst a n).fb = s.fb := by obtain ⟨w, h⟩ := s.loadFirst_eq a n; rw [h]; try rfl
@[simp] theorem State.loadFirst_dirty (a n : Nat) : (s.loadFirst a n).dirty = s.dirty := by obtain ⟨w, h⟩ := s.loadFirst_eq a n; rw [h]; try rfl
@[simp] theorem State.loadFirst_keys (a n : Nat) : (s.loadFirst a n).keys = s.keys := by obtain ⟨w, h⟩ := s.loadFirst_eq a n; rw [h]; try rfl
@[simp] theorem State.loadFirst_halt (a n : Nat) : (s.loadFirst a n).halt = s.halt := by obtain ⟨w, h⟩ := s.loadFirst_eq a n; rw [h]; try rfl
@[simp] theorem State.loadFirst_fault (a n : Nat) : (s.loadFirst a n).fault = s.fault := by obtain ⟨w, h⟩ := s.loadFirst_eq a n; rw [h]; try rfl
@[simp] theorem State.loadFirst_params (a n : Nat) : (s.loadFirst a n).params = s.params := by obtain ⟨w, h⟩ := s.loadFirst_eq a n; rw [h]; try rfl
@[simp] theorem State.loadFirst_draws (a n : Nat) : (s.loadFirst a n).draws = s.draws := by obtain ⟨w, h⟩ := s.loadFirst_eq a n; rw [h]; try rfl
@[simp] theorem State.loadFirst_agenda (a n : Nat) : (s.loadFirst a n).agenda = s.agenda := by obtain ⟨w, h⟩ := s.loadFirst_eq a n; rw [h]; try rfl
@[simp] theorem State.loadFirst_supply (a n : Nat) : (s.loadFirst a n).supply = s.supply := by obtain ⟨w, h⟩ := s.loadFirst_eq a n; rw [h]; try rfl
@[simp] theorem State.readByte_loadFirst (a n : Nat) (c : Nat) : (s.loadFirst a n).readByte c = s.readByte c := by obtain ⟨w, h⟩ := s.loadFirst_eq a n; rw [h]; try rfl
@[simp] theorem State.key_loadFirst (a n : Nat) (j : Nibble) : (s.loadFirst a n).key j = s.key j := by obtain ⟨w, h⟩ := s.loadFirst_eq a n; rw [h]; try rfl

/-- The registers below `n` hold the bytes at their addresses, the others are as before (R224). -/
theorem State.getV_loadFirst (a n : Nat) (hn : n ≤ 16) (r : Nibble) :
    (s.loadFirst a n).getV r = if r.toNat < n then s.readByte (a + r.toNat) else s.getV r := by
  induction n with
  | zero => simp [State.loadFirst]
  | succ n ih =>
    have hlt : n < 16 := hn
    have hto : (BitVec.ofNat 4 n).toNat = n := by simp [Nat.mod_eq_of_lt hlt]
    rw [State.loadFirst, State.getV_setV, ih (by omega), State.readByte_loadFirst]
    by_cases hr : r = BitVec.ofNat 4 n
    · have : r.toNat = n := by rw [hr, hto]
      simp [hr, Nat.mod_eq_of_lt hlt]
    · have : r.toNat ≠ n := fun h => hr (BitVec.eq_of_toNat_eq (by rw [hto, h]))
      simp only [hr, if_false]
      by_cases h : r.toNat < n
      · simp [h, Nat.lt_succ_of_lt h]
      · have : ¬ r.toNat < n + 1 := by omega
        simp [h, this]

/-! ## Faults and range checks -/

/-- Both outcomes of the range check (R63): the instruction goes on, or it raises `OutOfBoundsAccess`. -/
theorem State.withRange_cases (n : Nat) (k : State → Result) :
    (inRange s.idx.toNat n = true ∧ s.withRange n k = k s) ∨
    (inRange s.idx.toNat n = false ∧
      s.withRange n k = .next (s.raise (.outOfBoundsAccess (lowestOutside s.idx.toNat)))) := by
  cases h : inRange s.idx.toNat n <;> simp [State.withRange, h, raising]

theorem inRange_iff (a n : Nat) : inRange a n = true ↔ n = 0 ∨ a + n ≤ 4096 := by
  simp only [inRange, Bool.or_eq_true, beq_iff_eq, decide_eq_true_eq]
  exact Iff.rfl

/-- An instruction whose whole range is inside memory goes on. -/
theorem State.withRange_inside {n : Nat} (k : State → Result) (h : n = 0 ∨ s.idx.toNat + n ≤ 4096) :
    s.withRange n k = k s := by
  rw [State.withRange, if_pos ((inRange_iff _ _).mpr h)]

/-- An instruction with a byte above 0xFFF raises. -/
theorem State.withRange_outside {n : Nat} (k : State → Result) (h : n ≠ 0) (h' : 4096 < s.idx.toNat + n) :
    s.withRange n k = .next (s.raise (.outOfBoundsAccess (lowestOutside s.idx.toNat))) := by
  rw [State.withRange, if_neg (fun hr => by rcases (inRange_iff _ _).mp hr with h0 | h0 <;> omega)]
  rfl

/-- The reported address (R63): `a` itself above 0xFFF, else 0x1000. -/
theorem toNat_lowestOutside (a : Nat) (h : a < 131072) :
    (lowestOutside a).toNat = if 0xFFF < a then a else 0x1000 := by
  unfold lowestOutside
  split
  · simp [Nat.mod_eq_of_lt h]
  · rfl

/-- Both outcomes of the pseudocode of `CALL` (R143). -/
theorem State.callTo_cases (nnn : Addr12) :
    (∃ h : s.sp.val < 16, s.callTo nnn = .next ((s.push s.pc h).setPc (nnn.setWidth 16))) ∨
    (s.sp.val = 16 ∧ s.callTo nnn = .next (s.raise .stackOverflow)) := by
  unfold State.callTo
  by_cases h : s.sp.val < 16
  · exact .inl ⟨h, by rw [dif_pos h]⟩
  · exact .inr ⟨by omega, by rw [dif_neg h]; rfl⟩

/-- The word of two bytes as a number: `w = MEM[a] * 256 + MEM[a+1]` (R60). -/
theorem wordOfBytes_eq (hi lo : Byte) : wordOfBytes hi lo = BitVec.ofNat 16 (hi.toNat * 256 + lo.toNat) := by
  apply BitVec.eq_of_toNat_eq
  have h1 := hi.isLt
  have h2 := lo.isLt
  have h : hi.toNat <<< 8 ||| lo.toNat = 2 ^ 8 * hi.toNat + lo.toNat := by
    rw [Nat.two_pow_add_eq_or_of_lt h2, Nat.shiftLeft_eq, Nat.mul_comm]
  rw [wordOfBytes, BitVec.toNat_append, h, BitVec.toNat_ofNat]
  omega

/-- Both outcomes of a fetch (R64). -/
theorem fetch_cases :
    (0xFFE < s.pc.toNat ∧ fetch s = .error (.outOfBoundsAccess (lowestOutside s.pc.toNat))) ∨
    (s.pc.toNat ≤ 0xFFE ∧
      fetch s = .ok (wordOfBytes (s.readByte s.pc.toNat) (s.readByte (s.pc.toNat + 1)))) := by
  unfold fetch
  by_cases h : 0xFFE < s.pc.toNat
  · exact .inl ⟨h, by rw [if_pos h]⟩
  · exact .inr ⟨by omega, by rw [if_neg h]⟩

/-! ## Operands -/

theorem length_bcdDigits (b : Byte) : (bcdDigits b).length = 3 := rfl

theorem State.length_firstRegs (n : Nat) : (s.firstRegs n).length = n := by simp [State.firstRegs]

theorem State.getElem_firstRegs (n k : Nat) (h : k < (s.firstRegs n).length) :
    (s.firstRegs n)[k] = s.getV (BitVec.ofNat 4 k) := by
  simp [State.firstRegs]

theorem State.length_readBytes (a n : Nat) : (s.readBytes a n).length = n := by simp [State.readBytes]

theorem State.getElem_readBytes (a n k : Nat) (h : k < (s.readBytes a n).length) :
    (s.readBytes a n)[k] = s.readByte (a + k) := by
  simp [State.readBytes]

/-- The key search from `k` on: the first pressed key, or none is pressed. -/
theorem State.firstKeyFrom_spec (k fuel : Nat) (hk : k + fuel ≤ 16) :
    (∃ j : Nibble, s.firstKeyFrom k fuel = some j ∧ k ≤ j.toNat ∧ s.key j = true ∧
      ∀ i : Nibble, k ≤ i.toNat → i.toNat < j.toNat → s.key i = false) ∨
    (s.firstKeyFrom k fuel = none ∧ ∀ i : Nibble, k ≤ i.toNat → i.toNat < k + fuel → s.key i = false) := by
  induction fuel generalizing k with
  | zero => exact .inr ⟨rfl, fun i h1 h2 => absurd h1 (by omega)⟩
  | succ fuel ih =>
    have hto : (BitVec.ofNat 4 k).toNat = k := by simp [Nat.mod_eq_of_lt (show k < 16 by omega)]
    have hself : ∀ i : Nibble, i.toNat = k → i = BitVec.ofNat 4 k :=
      fun i h => BitVec.eq_of_toNat_eq (by rw [hto, h])
    by_cases hkey : s.key (BitVec.ofNat 4 k) = true
    · exact .inl ⟨_, by rw [State.firstKeyFrom, if_pos hkey], by omega, hkey, fun i h1 h2 => absurd h1 (by omega)⟩
    · have hk0 : s.key (BitVec.ofNat 4 k) = false := by simpa using hkey
      have hstep : s.firstKeyFrom k (fuel + 1) = s.firstKeyFrom (k + 1) fuel := by
        rw [State.firstKeyFrom, if_neg hkey]
      rcases ih (k + 1) (by omega) with ⟨j, h1, h2, h3, h4⟩ | ⟨h1, h2⟩
      · refine .inl ⟨j, by rw [hstep, h1], by omega, h3, fun i hi1 hi2 => ?_⟩
        by_cases hik : i.toNat = k
        · rw [hself i hik, hk0]
        · exact h4 i (by omega) hi2
      · refine .inr ⟨by rw [hstep, h1], fun i hi1 hi2 => ?_⟩
        by_cases hik : i.toNat = k
        · rw [hself i hik, hk0]
        · exact h2 i (by omega) (by omega)

/-- The key wait's search (R203): the lowest pressed key, or no key is pressed. -/
theorem State.firstKey_spec :
    (∃ j : Nibble, s.firstKey = some j ∧ s.key j = true ∧ ∀ i : Nibble, i.toNat < j.toNat → s.key i = false) ∨
    (s.firstKey = none ∧ ∀ i : Nibble, s.key i = false) := by
  rcases s.firstKeyFrom_spec 0 16 (by omega) with ⟨j, h1, _, h3, h4⟩ | ⟨h1, h2⟩
  · exact .inl ⟨j, h1, h3, fun i hi => h4 i (Nat.zero_le _) hi⟩
  · exact .inr ⟨h1, fun i => h2 i (Nat.zero_le _) (by have := i.isLt; omega)⟩

/-! ## Flags -/

/-- The carry flag is 1 exactly when the true sum is at least 256 (R176). -/
theorem carryOut_eq (a b : Byte) : carryOut a b = decide (256 ≤ a.toNat + b.toNat) := by
  have ha := a.isLt
  have hb := b.isLt
  have h : (a.setWidth 9 + b.setWidth 9).toNat = a.toNat + b.toNat := by
    simp only [BitVec.toNat_add, BitVec.toNat_setWidth]
    omega
  unfold carryOut
  rw [show (a.setWidth 9 + b.setWidth 9).getLsbD 8 = (a.setWidth 9 + b.setWidth 9).msb by
    simp [BitVec.msb_eq_getLsbD_last], BitVec.msb_eq_decide, h]

/-- The flag of a subtraction is 1 exactly when no borrow was needed (R176). -/
theorem notBorrow_eq (a b : Byte) : notBorrow a b = decide (b.toNat ≤ a.toNat) := by
  simp only [notBorrow, ← decide_not, Nat.not_lt]

theorem State.toNat_indexSum (x : Nibble) : (s.indexSum x).toNat = s.idx.toNat + (s.getV x).toNat := by
  have h1 := s.idx.isLt
  have h2 := (s.getV x).isLt
  simp only [State.indexSum, BitVec.toNat_add, BitVec.toNat_setWidth]
  omega

end Sys2Proof.Machine
end

