-- ==== Sys2Proof/Laws/PerInstr.lean ====
section
/-! SUPPORT. For every instruction: its word selects a row of the opcode map that builds it again
(spec/30_encoding.md R98, R100, R105). -/

namespace Sys2Proof.Laws.RowMatch

/-- The word of the instruction selects a row of the map, and that row reads every operand back. -/
def Statement (i : Instr) : Prop :=
  ∃ r ∈ opcodeMap, r.selects (encode i) = true ∧ r.build (encode i) = i

/-- What a row has to be for `Statement`. -/
theorem of_row {i : Instr} (k : Fin 35) (hs : (opcodeMap[k.val]'k.isLt).selects (encode i) = true)
    (hb : (opcodeMap[k.val]'k.isLt).build (encode i) = i) : Statement i :=
  ⟨_, List.getElem_mem _, hs, hb⟩

theorem clearScreen : Statement .clearScreen :=
  of_row 0 rfl rfl

theorem ret : Statement .ret :=
  of_row 1 rfl rfl

theorem sys (nnn : Addr12) : Statement (.sys nnn) :=
  of_row 2 (beq_iff_eq.mpr ((mask_op _ _).mpr (fieldOp_encodeNnn _ _))) (congrArg _ (fieldNnn_encodeNnn _ _))

theorem jump (nnn : Addr12) : Statement (.jump nnn) :=
  of_row 3 (beq_iff_eq.mpr ((mask_op _ _).mpr (fieldOp_encodeNnn _ _))) (congrArg _ (fieldNnn_encodeNnn _ _))

theorem call (nnn : Addr12) : Statement (.call nnn) :=
  of_row 4 (beq_iff_eq.mpr ((mask_op _ _).mpr (fieldOp_encodeNnn _ _))) (congrArg _ (fieldNnn_encodeNnn _ _))

theorem skipEqConst (x : Nibble) (kk : Byte) : Statement (.skipEqConst x kk) :=
  of_row 5 (beq_iff_eq.mpr ((mask_op _ _).mpr (fieldOp_encodeXkk _ _ _)))
    (congrArg₂ _ (fieldX_encodeXkk _ _ _) (fieldKk_encodeXkk _ _ _))

theorem skipNeConst (x : Nibble) (kk : Byte) : Statement (.skipNeConst x kk) :=
  of_row 6 (beq_iff_eq.mpr ((mask_op _ _).mpr (fieldOp_encodeXkk _ _ _)))
    (congrArg₂ _ (fieldX_encodeXkk _ _ _) (fieldKk_encodeXkk _ _ _))

theorem skipEqReg (x y : Nibble) : Statement (.skipEqReg x y) :=
  of_row 7 (beq_iff_eq.mpr ((mask_op_n _ _ _).mpr ⟨fieldOp_encodeXyn _ _ _ _, fieldN_encodeXyn _ _ _ _⟩))
    (congrArg₂ _ (fieldX_encodeXyn _ _ _ _) (fieldY_encodeXyn _ _ _ _))

theorem setConst (x : Nibble) (kk : Byte) : Statement (.setConst x kk) :=
  of_row 8 (beq_iff_eq.mpr ((mask_op _ _).mpr (fieldOp_encodeXkk _ _ _)))
    (congrArg₂ _ (fieldX_encodeXkk _ _ _) (fieldKk_encodeXkk _ _ _))

theorem addConst (x : Nibble) (kk : Byte) : Statement (.addConst x kk) :=
  of_row 9 (beq_iff_eq.mpr ((mask_op _ _).mpr (fieldOp_encodeXkk _ _ _)))
    (congrArg₂ _ (fieldX_encodeXkk _ _ _) (fieldKk_encodeXkk _ _ _))

theorem assign (x y : Nibble) : Statement (.assign x y) :=
  of_row 10 (beq_iff_eq.mpr ((mask_op_n _ _ _).mpr ⟨fieldOp_encodeXyn _ _ _ _, fieldN_encodeXyn _ _ _ _⟩))
    (congrArg₂ _ (fieldX_encodeXyn _ _ _ _) (fieldY_encodeXyn _ _ _ _))

theorem orReg (x y : Nibble) : Statement (.orReg x y) :=
  of_row 11 (beq_iff_eq.mpr ((mask_op_n _ _ _).mpr ⟨fieldOp_encodeXyn _ _ _ _, fieldN_encodeXyn _ _ _ _⟩))
    (congrArg₂ _ (fieldX_encodeXyn _ _ _ _) (fieldY_encodeXyn _ _ _ _))

theorem andReg (x y : Nibble) : Statement (.andReg x y) :=
  of_row 12 (beq_iff_eq.mpr ((mask_op_n _ _ _).mpr ⟨fieldOp_encodeXyn _ _ _ _, fieldN_encodeXyn _ _ _ _⟩))
    (congrArg₂ _ (fieldX_encodeXyn _ _ _ _) (fieldY_encodeXyn _ _ _ _))

theorem xorReg (x y : Nibble) : Statement (.xorReg x y) :=
  of_row 13 (beq_iff_eq.mpr ((mask_op_n _ _ _).mpr ⟨fieldOp_encodeXyn _ _ _ _, fieldN_encodeXyn _ _ _ _⟩))
    (congrArg₂ _ (fieldX_encodeXyn _ _ _ _) (fieldY_encodeXyn _ _ _ _))

theorem addReg (x y : Nibble) : Statement (.addReg x y) :=
  of_row 14 (beq_iff_eq.mpr ((mask_op_n _ _ _).mpr ⟨fieldOp_encodeXyn _ _ _ _, fieldN_encodeXyn _ _ _ _⟩))
    (congrArg₂ _ (fieldX_encodeXyn _ _ _ _) (fieldY_encodeXyn _ _ _ _))

theorem subReg (x y : Nibble) : Statement (.subReg x y) :=
  of_row 15 (beq_iff_eq.mpr ((mask_op_n _ _ _).mpr ⟨fieldOp_encodeXyn _ _ _ _, fieldN_encodeXyn _ _ _ _⟩))
    (congrArg₂ _ (fieldX_encodeXyn _ _ _ _) (fieldY_encodeXyn _ _ _ _))

theorem shiftRight (x y : Nibble) : Statement (.shiftRight x y) :=
  of_row 16 (beq_iff_eq.mpr ((mask_op_n _ _ _).mpr ⟨fieldOp_encodeXyn _ _ _ _, fieldN_encodeXyn _ _ _ _⟩))
    (congrArg₂ _ (fieldX_encodeXyn _ _ _ _) (fieldY_encodeXyn _ _ _ _))

theorem subReverse (x y : Nibble) : Statement (.subReverse x y) :=
  of_row 17 (beq_iff_eq.mpr ((mask_op_n _ _ _).mpr ⟨fieldOp_encodeXyn _ _ _ _, fieldN_encodeXyn _ _ _ _⟩))
    (congrArg₂ _ (fieldX_encodeXyn _ _ _ _) (fieldY_encodeXyn _ _ _ _))

theorem shiftLeft (x y : Nibble) : Statement (.shiftLeft x y) :=
  of_row 18 (beq_iff_eq.mpr ((mask_op_n _ _ _).mpr ⟨fieldOp_encodeXyn _ _ _ _, fieldN_encodeXyn _ _ _ _⟩))
    (congrArg₂ _ (fieldX_encodeXyn _ _ _ _) (fieldY_encodeXyn _ _ _ _))

theorem skipNeReg (x y : Nibble) : Statement (.skipNeReg x y) :=
  of_row 19 (beq_iff_eq.mpr ((mask_op_n _ _ _).mpr ⟨fieldOp_encodeXyn _ _ _ _, fieldN_encodeXyn _ _ _ _⟩))
    (congrArg₂ _ (fieldX_encodeXyn _ _ _ _) (fieldY_encodeXyn _ _ _ _))

theorem setIndex (nnn : Addr12) : Statement (.setIndex nnn) :=
  of_row 20 (beq_iff_eq.mpr ((mask_op _ _).mpr (fieldOp_encodeNnn _ _))) (congrArg _ (fieldNnn_encodeNnn _ _))

theorem jumpOffset (nnn : Addr12) : Statement (.jumpOffset nnn) :=
  of_row 21 (beq_iff_eq.mpr ((mask_op _ _).mpr (fieldOp_encodeNnn _ _))) (congrArg _ (fieldNnn_encodeNnn _ _))

theorem random (x : Nibble) (kk : Byte) : Statement (.random x kk) :=
  of_row 22 (beq_iff_eq.mpr ((mask_op _ _).mpr (fieldOp_encodeXkk _ _ _)))
    (congrArg₂ _ (fieldX_encodeXkk _ _ _) (fieldKk_encodeXkk _ _ _))

theorem draw (x y n : Nibble) : Statement (.draw x y n) :=
  of_row 23 (beq_iff_eq.mpr ((mask_op _ _).mpr (fieldOp_encodeXyn _ _ _ _)))
    (by simp [opcodeMap, opcodeRows0, opcodeRows1to7, opcodeRows8, opcodeRows9toE, opcodeRowsF, encode])

theorem skipKeyPressed (x : Nibble) : Statement (.skipKeyPressed x) :=
  of_row 24 (beq_iff_eq.mpr ((mask_op_kk _ _ _).mpr ⟨fieldOp_encodeXkk _ _ _, fieldKk_encodeXkk _ _ _⟩))
    (congrArg _ (fieldX_encodeXkk _ _ _))

theorem skipKeyNotPressed (x : Nibble) : Statement (.skipKeyNotPressed x) :=
  of_row 25 (beq_iff_eq.mpr ((mask_op_kk _ _ _).mpr ⟨fieldOp_encodeXkk _ _ _, fieldKk_encodeXkk _ _ _⟩))
    (congrArg _ (fieldX_encodeXkk _ _ _))

theorem getDelay (x : Nibble) : Statement (.getDelay x) :=
  of_row 26 (beq_iff_eq.mpr ((mask_op_kk _ _ _).mpr ⟨fieldOp_encodeXkk _ _ _, fieldKk_encodeXkk _ _ _⟩))
    (congrArg _ (fieldX_encodeXkk _ _ _))

theorem waitKey (x : Nibble) : Statement (.waitKey x) :=
  of_row 27 (beq_iff_eq.mpr ((mask_op_kk _ _ _).mpr ⟨fieldOp_encodeXkk _ _ _, fieldKk_encodeXkk _ _ _⟩))
    (congrArg _ (fieldX_encodeXkk _ _ _))

theorem setDelay (x : Nibble) : Statement (.setDelay x) :=
  of_row 28 (beq_iff_eq.mpr ((mask_op_kk _ _ _).mpr ⟨fieldOp_encodeXkk _ _ _, fieldKk_encodeXkk _ _ _⟩))
    (congrArg _ (fieldX_encodeXkk _ _ _))

theorem setSound (x : Nibble) : Statement (.setSound x) :=
  of_row 29 (beq_iff_eq.mpr ((mask_op_kk _ _ _).mpr ⟨fieldOp_encodeXkk _ _ _, fieldKk_encodeXkk _ _ _⟩))
    (congrArg _ (fieldX_encodeXkk _ _ _))

theorem addIndex (x : Nibble) : Statement (.addIndex x) :=
  of_row 30 (beq_iff_eq.mpr ((mask_op_kk _ _ _).mpr ⟨fieldOp_encodeXkk _ _ _, fieldKk_encodeXkk _ _ _⟩))
    (congrArg _ (fieldX_encodeXkk _ _ _))

theorem fontAddr (x : Nibble) : Statement (.fontAddr x) :=
  of_row 31 (beq_iff_eq.mpr ((mask_op_kk _ _ _).mpr ⟨fieldOp_encodeXkk _ _ _, fieldKk_encodeXkk _ _ _⟩))
    (congrArg _ (fieldX_encodeXkk _ _ _))

theorem storeBcd (x : Nibble) : Statement (.storeBcd x) :=
  of_row 32 (beq_iff_eq.mpr ((mask_op_kk _ _ _).mpr ⟨fieldOp_encodeXkk _ _ _, fieldKk_encodeXkk _ _ _⟩))
    (congrArg _ (fieldX_encodeXkk _ _ _))

theorem dumpRegs (x : Nibble) : Statement (.dumpRegs x) :=
  of_row 33 (beq_iff_eq.mpr ((mask_op_kk _ _ _).mpr ⟨fieldOp_encodeXkk _ _ _, fieldKk_encodeXkk _ _ _⟩))
    (congrArg _ (fieldX_encodeXkk _ _ _))

theorem loadRegs (x : Nibble) : Statement (.loadRegs x) :=
  of_row 34 (beq_iff_eq.mpr ((mask_op_kk _ _ _).mpr ⟨fieldOp_encodeXkk _ _ _, fieldKk_encodeXkk _ _ _⟩))
    (congrArg _ (fieldX_encodeXkk _ _ _))

end Sys2Proof.Laws.RowMatch
end

