-- ==== Sys2Proof/Laws/Step.lean ====
section
/-! SUPPORT. What the execute stage, a core step and a step can do, said once. -/

namespace Sys2Proof.Machine

variable {s t : State}

/-- Every instruction answers a next state: the four faults of R241 are taken, not stopped on. -/
theorem exec_next (i : Instr) (s : State) : ∃ t, exec i s = .next t := by
  have range : ∀ n k, (∀ u : State, ∃ t, k u = Host.Outcome.next t) → ∃ t, s.withRange n k = Host.Outcome.next t := by
    intro n k hk
    rcases s.withRange_cases n k with ⟨_, h⟩ | ⟨_, h⟩
    · rw [h]; exact hk s
    · exact ⟨_, h⟩
  have call : ∀ nnn, ∃ t, s.callTo nnn = Host.Outcome.next t := by
    intro nnn
    rcases s.callTo_cases nnn with ⟨_, h⟩ | ⟨_, h⟩ <;> exact ⟨_, h⟩
  cases i with
  | ret => simp only [exec, execRet]; split <;> exact ⟨_, rfl⟩
  | sys nnn =>
    simp only [exec, execSys]
    split
    · exact ⟨_, rfl⟩
    · exact call nnn
    · exact ⟨_, rfl⟩
  | call nnn => exact call nnn
  | waitKey x => simp only [exec, execWaitKey]; split <;> exact ⟨_, rfl⟩
  | draw x y n => exact range _ _ (fun u => ⟨_, rfl⟩)
  | storeBcd x => exact range _ _ (fun u => ⟨_, rfl⟩)
  | dumpRegs x => exact range _ _ (fun u => ⟨_, rfl⟩)
  | loadRegs x => exact range _ _ (fun u => ⟨_, rfl⟩)
  | _ => exact ⟨_, rfl⟩

/-- The state an instruction leaves when it raises no fault. -/
def Completes (s t : State) : Instr → Prop
  | .clearScreen => t = ((s.setFb blankScreen).setDirty true).advance
  | .ret => ∃ h : 0 < s.sp.val, t = s.popSp.setPc (s.top h + 2)
  | .sys nnn => (s.params.sysPolicy = .call ∧ ∃ h : s.sp.val < 16, t = (s.push s.pc h).setPc (nnn.setWidth 16)) ∨
      (s.params.sysPolicy = .nop ∧ t = s.advance)
  | .jump nnn => t = s.setPc (nnn.setWidth 16)
  | .call nnn => ∃ h : s.sp.val < 16, t = (s.push s.pc h).setPc (nnn.setWidth 16)
  | .skipEqConst x kk => t = s.skipIf (s.getV x == kk)
  | .skipNeConst x kk => t = s.skipIf (s.getV x != kk)
  | .skipEqReg x y => t = s.skipIf (s.getV x == s.getV y)
  | .setConst x kk => t = (s.setV x kk).advance
  | .addConst x kk => t = (s.setV x (s.getV x + kk)).advance
  | .assign x y => t = (s.setV x (s.getV y)).advance
  | .orReg x y => t = (s.setV x (s.getV x ||| s.getV y)).advance
  | .andReg x y => t = (s.setV x (s.getV x &&& s.getV y)).advance
  | .xorReg x y => t = (s.setV x (s.getV x ^^^ s.getV y)).advance
  | .addReg x y => t = (s.setFlagThenV (carryOut (s.getV x) (s.getV y)) x (s.getV x + s.getV y)).advance
  | .subReg x y => t = (s.setFlagThenV (notBorrow (s.getV x) (s.getV y)) x (s.getV x - s.getV y)).advance
  | .shiftRight x y =>
      t = (s.setFlagThenV (shiftedOutRight (s.shiftSource x y)) x (s.shiftSource x y >>> 1)).advance
  | .subReverse x y => t = (s.setFlagThenV (notBorrow (s.getV y) (s.getV x)) x (s.getV y - s.getV x)).advance
  | .shiftLeft x y =>
      t = (s.setFlagThenV (shiftedOutLeft (s.shiftSource x y)) x (s.shiftSource x y <<< 1)).advance
  | .skipNeReg x y => t = s.skipIf (s.getV x != s.getV y)
  | .setIndex nnn => t = (s.setIdx (nnn.setWidth 16)).advance
  | .jumpOffset nnn => t = s.setPc (s.offsetTarget nnn)
  | .random x kk => t = (s.countDraw.setV x (s.rndInput &&& kk)).advance
  | .draw x y n => inRange s.idx.toNat n.toNat = true ∧ t = s.drawSprite x y n
  | .skipKeyPressed x => t = s.skipIf (s.key (s.lowNibble x))
  | .skipKeyNotPressed x => t = s.skipIf (!s.key (s.lowNibble x))
  | .getDelay x => t = (s.setV x s.dt).advance
  | .waitKey x => (∃ k, s.firstKey = some k ∧ t = (s.setV x (k.setWidth 8)).advance) ∨ (s.firstKey = none ∧ t = s)
  | .setDelay x => t = (s.setDt (s.getV x)).advance
  | .setSound x => t = (s.setSt (s.getV x)).advance
  | .addIndex x =>
      (s.params.legacyIOverflowFlag = true ∧
        t = ((s.setIdx ((s.indexSum x).setWidth 16)).setFlag (indexExceeds (s.indexSum x))).advance) ∨
      (s.params.legacyIOverflowFlag = false ∧ t = (s.setIdx ((s.indexSum x).setWidth 16)).advance)
  | .fontAddr x =>
      t = (s.setIdx (BitVec.ofNat 16 (Config.fontBase + Config.glyphBytes * (s.lowNibble x).toNat))).advance
  | .storeBcd x => inRange s.idx.toNat 3 = true ∧ t = (s.writeBytes s.idx.toNat (bcdDigits (s.getV x))).advance
  | .dumpRegs x => inRange s.idx.toNat (x.toNat + 1) = true ∧
      t = (s.writeBytes s.idx.toNat (s.firstRegs (x.toNat + 1))).advance
  | .loadRegs x => inRange s.idx.toNat (x.toNat + 1) = true ∧ t = (s.loadFirst s.idx.toNat (x.toNat + 1)).advance

/-- What an instruction did: it raised a fault, or it completed. -/
theorem exec_cases {i : Instr} (h : exec i s = .next t) : (∃ f, f ≠ .none ∧ t = s.raise f) ∨ Completes s t i := by
  have range : ∀ n (u : State), (s.withRange n (fun _ => .next u)) = .next t →
      (∃ f, f ≠ FaultRecord.none ∧ t = s.raise f) ∨ (inRange s.idx.toNat n = true ∧ t = u) := by
    intro n u hu
    rcases s.withRange_cases n (fun _ => .next u) with ⟨hr, h'⟩ | ⟨_, h'⟩
    · rw [h'] at hu; cases hu; exact .inr ⟨hr, rfl⟩
    · rw [h'] at hu; cases hu; exact .inl ⟨_, by simp, rfl⟩
  have call : ∀ nnn, s.callTo nnn = .next t → (∃ f, f ≠ FaultRecord.none ∧ t = s.raise f) ∨
      ∃ h : s.sp.val < 16, t = (s.push s.pc h).setPc (nnn.setWidth 16) := by
    intro nnn hc
    rcases s.callTo_cases nnn with ⟨hs, h'⟩ | ⟨_, h'⟩
    · rw [h'] at hc; cases hc; exact .inr ⟨hs, rfl⟩
    · rw [h'] at hc; cases hc; exact .inl ⟨_, by simp, rfl⟩
  cases i with
  | ret =>
    simp only [exec, execRet] at h
    split at h
    · cases h; exact .inr ⟨‹_›, rfl⟩
    · cases h; exact .inl ⟨_, by simp, rfl⟩
  | sys nnn =>
    simp only [exec, execSys] at h
    split at h
    · cases h; exact .inl ⟨_, by simp, rfl⟩
    · exact (call nnn h).imp id (fun hc => .inl ⟨‹_›, hc⟩)
    · cases h; exact .inr (.inr ⟨‹_›, rfl⟩)
  | call nnn => exact call nnn h
  | waitKey x =>
    simp only [exec, execWaitKey] at h
    split at h
    · cases h; exact .inr (.inl ⟨_, ‹_›, rfl⟩)
    · cases h; exact .inr (.inr ⟨‹_›, rfl⟩)
  | addIndex x =>
    simp only [exec, execAddIndex] at h
    split at h
    · cases h; exact .inr (.inl ⟨‹_›, rfl⟩)
    · rename_i hl
      cases h
      exact .inr (.inr ⟨Bool.eq_false_iff.mpr hl, rfl⟩)
  | draw x y n =>
    have : s.withRange n.toNat (fun _ => .next (s.drawSprite x y n)) = .next t := h
    exact range _ _ this
  | storeBcd x =>
    have : s.withRange 3 (fun _ => .next (s.writeBytes s.idx.toNat (bcdDigits (s.getV x))).advance) = .next t := h
    exact range _ _ this
  | dumpRegs x =>
    have : s.withRange (x.toNat + 1)
        (fun _ => .next (s.writeBytes s.idx.toNat (s.firstRegs (x.toNat + 1))).advance) = .next t := h
    exact range _ _ this
  | loadRegs x =>
    have : s.withRange (x.toNat + 1)
        (fun _ => .next (s.loadFirst s.idx.toNat (x.toNat + 1)).advance) = .next t := h
    exact range _ _ this
  | _ => cases h; exact .inr rfl

/-- What a core step does (R240): a fetch fault, a decode fault, or the rule of the decoded instruction. -/
theorem coreStep_cases (s : State) :
    (0xFFE < s.pc.toNat ∧ coreStep s = .next (s.raise (.outOfBoundsAccess (lowestOutside s.pc.toNat)))) ∨
    (s.pc.toNat ≤ 0xFFE ∧ ∃ w, w = wordOfBytes (s.readByte s.pc.toNat) (s.readByte (s.pc.toNat + 1)) ∧
      ((∃ raw, decode w = .error (.unsupportedInstruction raw) ∧
          coreStep s = .next (s.raise (.unsupportedInstruction raw))) ∨
       (∃ i, decode w = .ok i ∧ coreStep s = exec i s))) := by
  rcases fetch_cases s with ⟨h, hf⟩ | ⟨h, hf⟩
  · exact .inl ⟨h, by rw [coreStep, hf]; rfl⟩
  · refine .inr ⟨h, _, rfl, ?_⟩
    cases hd : decode (wordOfBytes (s.readByte s.pc.toNat) (s.readByte (s.pc.toNat + 1))) with
    | error e =>
      obtain ⟨raw⟩ := e
      exact .inl ⟨raw, rfl, by rw [coreStep, hf]; simp only [hd]; rfl⟩
    | ok i => exact .inr ⟨i, rfl, by rw [coreStep, hf]; simp only [hd]⟩

/-- A core step always answers a next state. -/
theorem coreStep_next (s : State) : ∃ t, coreStep s = .next t := by
  rcases coreStep_cases s with ⟨_, h⟩ | ⟨_, w, _, ⟨raw, _, h⟩ | ⟨i, _, h⟩⟩
  · exact ⟨_, h⟩
  · exact ⟨_, h⟩
  · rw [h]; exact exec_next i s

/-- What a step that answers a next state did: the CORE's own step, or the event that is due. -/
theorem step_cases (h : step s = .next t) :
    (∃ u, CoreTurn s u ∧ s.halt = false ∧ coreStep u = .next t) ∨
    (s.due = some .step ∧ s.halt = true ∧ t = s.consume) ∨
    (s.due = some .tick ∧ t = tick s.consume) ∨
    (∃ k p, s.due = some (.keyEvent k p) ∧ t = keyEvent k p s.consume) ∨
    (s.due = some .presentAck ∧ t = presentAck s.consume) ∨
    (s.due = some .reset ∧ t = resetEvent s.consume) ∨
    (∃ bytes, s.due = some (.loadImage bytes) ∧ bytes.length ≤ Config.maxImage ∧ t = loadImage bytes s.consume) := by
  unfold step nextEvent at h
  cases hd : s.due with
  | none =>
    simp only [hd, runCore] at h
    cases hh : s.halt <;> simp only [hh, if_true, if_false, Bool.false_eq_true, reduceCtorEq] at h
    exact .inl ⟨s, .inl ⟨hd, rfl⟩, rfl, h⟩
  | some e =>
    simp only [hd] at h
    cases e with
    | step =>
      simp only [deliver, State.consume_halt] at h
      cases hh : s.halt <;> simp only [hh, if_true, if_false, Bool.false_eq_true] at h
      · exact .inl ⟨s.consume, .inr ⟨hd, rfl⟩, rfl, h⟩
      · exact .inr (.inl ⟨rfl, rfl, by cases h; rfl⟩)
    | tick => exact .inr (.inr (.inl ⟨rfl, by cases h; rfl⟩))
    | keyEvent k p => exact .inr (.inr (.inr (.inl ⟨k, p, rfl, by cases h; rfl⟩)))
    | presentAck => exact .inr (.inr (.inr (.inr (.inl ⟨rfl, by cases h; rfl⟩))))
    | reset => exact .inr (.inr (.inr (.inr (.inr (.inl ⟨rfl, by cases h; rfl⟩)))))
    | loadImage bytes =>
      simp only [deliver] at h
      split at h
      · rename_i hl
        exact .inr (.inr (.inr (.inr (.inr (.inr ⟨bytes, rfl, hl, by cases h; rfl⟩)))))
      · cases h

/-- When the CORE has its turn and `HALT = 0`, the step is the core step. -/
theorem step_of_coreTurn {u : State} (hu : CoreTurn s u) (hh : s.halt = false) : step s = coreStep u := by
  rcases hu with ⟨hd, rfl⟩ | ⟨hd, rfl⟩
  · simp [step, nextEvent, hd, runCore, hh]
  · simp [step, nextEvent, hd, deliver, hh]

/-- The state the CORE steps from is the state itself but for the event used up. -/
theorem CoreTurn.eq {u : State} (hu : CoreTurn s u) : ∃ a o, u = (s.setAgenda a).setSupply o := by
  rcases hu with ⟨_, rfl⟩ | ⟨_, rfl⟩
  · exact ⟨_, _, rfl⟩
  · exact s.consume_eq

/-! ## The core does not look at what comes next (R257) -/

section

variable (a : List Config.Event) (o : Option Nat)

theorem State.writeBytes_setNext (b : Nat) (bs : List Byte) :
    ((s.setAgenda a).setSupply o).writeBytes b bs = ((s.writeBytes b bs).setAgenda a).setSupply o := by
  induction bs generalizing s b with
  | nil => rfl
  | cons x xs ih => exact ih (s := s.writeByte b x) (b + 1)

theorem State.loadFirst_setNext (b n : Nat) :
    ((s.setAgenda a).setSupply o).loadFirst b n = ((s.loadFirst b n).setAgenda a).setSupply o := by
  induction n with
  | zero => rfl
  | succ n ih => rw [State.loadFirst, ih]; rfl

theorem State.firstKeyFrom_setNext (k n : Nat) :
    ((s.setAgenda a).setSupply o).firstKeyFrom k n = s.firstKeyFrom k n := by
  induction n generalizing k with
  | zero => rfl
  | succ n ih => rw [State.firstKeyFrom, ih]; rfl

/-- What an instruction does is the same whatever comes after it. -/
theorem exec_setNext {i : Instr} (h : exec i s = .next t) :
    exec i ((s.setAgenda a).setSupply o) = .next ((t.setAgenda a).setSupply o) := by
  have range : ∀ n (u : State) (k : State → Result), s.withRange n (fun _ => .next u) = .next t →
      k ((s.setAgenda a).setSupply o) = .next ((u.setAgenda a).setSupply o) →
      ((s.setAgenda a).setSupply o).withRange n k = .next ((t.setAgenda a).setSupply o) := by
    intro n u k hu hk
    unfold State.withRange at hu ⊢
    split at hu <;> rename_i hc <;> cases hu
    · exact (if_pos hc).trans hk
    · exact if_neg hc
  have call : ∀ nnn, s.callTo nnn = .next t →
      ((s.setAgenda a).setSupply o).callTo nnn = .next ((t.setAgenda a).setSupply o) := by
    intro nnn hu
    unfold State.callTo at hu ⊢
    split at hu <;> rename_i hc <;> cases hu
    · exact dif_pos hc
    · exact dif_neg hc
  cases i with
  | ret =>
    simp only [exec, execRet] at h ⊢
    split at h <;> rename_i hc <;> cases h
    · exact dif_pos hc
    · exact dif_neg hc
  | call nnn => exact call nnn h
  | sys nnn =>
    simp only [exec, execSys, State.setSupply_params, State.setAgenda_params] at h ⊢
    split at h
    · cases h; rfl
    · exact call nnn h
    · cases h; rfl
  | waitKey x =>
    simp only [exec, execWaitKey, State.firstKey, State.firstKeyFrom_setNext] at h ⊢
    split at h <;> cases h <;> rfl
  | addIndex x =>
    cases hc : s.params.legacyIOverflowFlag <;> simp only [exec, execAddIndex, State.setSupply_params,
      State.setAgenda_params, hc, if_true, if_false, Bool.false_eq_true] at h ⊢ <;> cases h <;> rfl
  | draw x y n => exact range n.toNat (s.drawSprite x y n) (fun u => .next (u.drawSprite x y n)) h rfl
  | storeBcd x =>
    exact range 3 (s.writeBytes s.idx.toNat (bcdDigits (s.getV x))).advance
      (fun u => .next (u.writeBytes u.idx.toNat (bcdDigits (u.getV x))).advance) h
      (congrArg (fun u : State => Host.Outcome.next u.advance) (State.writeBytes_setNext a o _ _))
  | dumpRegs x =>
    exact range (x.toNat + 1) (s.writeBytes s.idx.toNat (s.firstRegs (x.toNat + 1))).advance
      (fun u => .next (u.writeBytes u.idx.toNat (u.firstRegs (x.toNat + 1))).advance) h
      (congrArg (fun u : State => Host.Outcome.next u.advance) (State.writeBytes_setNext a o _ _))
  | loadRegs x =>
    exact range (x.toNat + 1) (s.loadFirst s.idx.toNat (x.toNat + 1)).advance
      (fun u => .next (u.loadFirst u.idx.toNat (x.toNat + 1)).advance) h
      (congrArg (fun u : State => Host.Outcome.next u.advance) (State.loadFirst_setNext a o _ _))
  | _ => cases h; rfl

/-- What a core step does is the same whatever comes after it. -/
theorem coreStep_setNext (h : coreStep s = .next t) :
    coreStep ((s.setAgenda a).setSupply o) = .next ((t.setAgenda a).setSupply o) := by
  have hf : fetch ((s.setAgenda a).setSupply o) = fetch s := rfl
  unfold coreStep at h ⊢
  rw [hf]
  split at h
  · cases h; rfl
  · split at h
    · cases h; rfl
    · exact exec_setNext a o h

end

end Sys2Proof.Machine
end

