-- ==== Sys2Proof/Tests/Slice0.lean ====
section
/-! SUPPORT. Tests and witnesses. Expected values are those of spec/95_test_vectors.md, by the vector's name; a
witness shows a concrete state and operands that meet the hypotheses of the statement it is named after. -/

namespace Sys2Proof.Tests

open Sys2Proof Sys2Proof.Machine

/-! ## Helpers -/

/-- The reset state with some registers set. -/
def regs (l : List (Nibble × Byte)) : State := l.foldl (fun s p => s.setV p.1 p.2) State.reset

/-- One step that runs the word `w`. -/
def run (s : State) (w : Nat) : Result := step (s.withFetchWord 16 w)

/-- What `f` shows of the next state. -/
def after {α : Type} (r : Result) (f : State → α) : Option α :=
  match r with
  | .next t => some (f t)
  | _ => none

/-- The reset state with other parameters. -/
def withParams (p : Config.Params) : State := State.resetWith p

/-- The columns that are set in row `r`. -/
def columns (t : State) (r : Fin 32) : List (Fin 64) := (List.finRange 64).filter (fun c => pixel t.fb r c)

/-- A state with `n` slots of the call stack in use, each holding `a`. -/
def depth (n : Fin 17) (a : Word) : State := { State.reset with sp := n, stack := Vector.replicate 16 a }

/-! ## Well-formedness (R104) -/

theorem test_sys_0E0_is_ill_formed : (Instr.sys 0x0E0).wellFormed = false := by decide

theorem test_sys_0EE_is_ill_formed : (Instr.sys 0x0EE).wellFormed = false := by decide

theorem test_sys_0E1_is_well_formed : (Instr.sys 0x0E1).wellFormed = true := by decide

/-! ## Decoding, group T-DEC, the words written out bit by bit -/

theorem test_decode_family_0 :
    decodeTableWord 16 0b0000000011100000 = some (.clearScreen) ∧
    decodeTableWord 16 0b0000000011101110 = some (.ret) ∧
    decodeTableWord 16 0b0000111111101110 = some (.sys 0xFEE) ∧
    decodeTableWord 16 0b0000000011100001 = some (.sys 0x0E1) := by decide

theorem test_decode_family_1_to_4 :
    decodeTableWord 16 0b0001101010111100 = some (.jump 0xABC) ∧
    decodeTableWord 16 0b0010110111101111 = some (.call 0xDEF) ∧
    decodeTableWord 16 0b0011111001000101 = some (.skipEqConst 0xE 0x45) ∧
    decodeTableWord 16 0b0100101000000000 = some (.skipNeConst 0xA 0x00) := by decide

theorem test_decode_family_5_to_7 :
    decodeTableWord 16 0b0101000100100000 = some (.skipEqReg 0x1 0x2) ∧
    decodeTableWord 16 0b0110000000000101 = some (.setConst 0x0 0x05) ∧
    decodeTableWord 16 0b0111000000000011 = some (.addConst 0x0 0x03) := by decide

theorem test_decode_family_8_logic :
    decodeTableWord 16 0b1000101010110000 = some (.assign 0xA 0xB) ∧
    decodeTableWord 16 0b1000101010110001 = some (.orReg 0xA 0xB) ∧
    decodeTableWord 16 0b1000101010110010 = some (.andReg 0xA 0xB) ∧
    decodeTableWord 16 0b1000101010110011 = some (.xorReg 0xA 0xB) := by decide

theorem test_decode_family_8_arithmetic :
    decodeTableWord 16 0b1000101010110100 = some (.addReg 0xA 0xB) ∧
    decodeTableWord 16 0b1000101010110101 = some (.subReg 0xA 0xB) ∧
    decodeTableWord 16 0b1000101010110110 = some (.shiftRight 0xA 0xB) ∧
    decodeTableWord 16 0b1000101010110111 = some (.subReverse 0xA 0xB) ∧
    decodeTableWord 16 0b1000101010111110 = some (.shiftLeft 0xA 0xB) := by decide

theorem test_decode_family_9_to_D :
    decodeTableWord 16 0b1001000100100000 = some (.skipNeReg 0x1 0x2) ∧
    decodeTableWord 16 0b1010001011110000 = some (.setIndex 0x2F0) ∧
    decodeTableWord 16 0b1011001000010000 = some (.jumpOffset 0x210) ∧
    decodeTableWord 16 0b1100001100001111 = some (.random 0x3 0x0F) ∧
    decodeTableWord 16 0b1101000100100101 = some (.draw 0x1 0x2 0x5) := by decide

theorem test_decode_family_E :
    decodeTableWord 16 0b1110010010011110 = some (.skipKeyPressed 0x4) ∧
    decodeTableWord 16 0b1110010010100001 = some (.skipKeyNotPressed 0x4) := by decide

theorem test_decode_family_F_timers :
    decodeTableWord 16 0b1111001000000111 = some (.getDelay 0x2) ∧
    decodeTableWord 16 0b1111010100001010 = some (.waitKey 0x5) ∧
    decodeTableWord 16 0b1111001000010101 = some (.setDelay 0x2) ∧
    decodeTableWord 16 0b1111001000011000 = some (.setSound 0x2) := by decide

theorem test_decode_family_F_memory :
    decodeTableWord 16 0b1111001000011110 = some (.addIndex 0x2) ∧
    decodeTableWord 16 0b1111001100101001 = some (.fontAddr 0x3) ∧
    decodeTableWord 16 0b1111001100110011 = some (.storeBcd 0x3) ∧
    decodeTableWord 16 0b1111111101010101 = some (.dumpRegs 0xF) ∧
    decodeTableWord 16 0b1111000001100101 = some (.loadRegs 0x0) := by decide

theorem test_illegal_words :
    [0x5121, 0x9FFF, 0x8128, 0x812D, 0x812F, 0xE09D, 0xE1FF, 0xF000, 0xF075, 0xFFFF].map (decodeTableWord 16) =
      List.replicate 10 none := by decide

theorem test_bytes_are_big_endian : decodeBytes [0x3E, 0x45, 0x60] = some (.ok (.skipEqConst 0xE 0x45), [0x60]) := by
  decide

theorem test_encode_gives_bytes : encodeBytes (.draw 0x1 0x2 0x5) = [0xD1, 0x25] := by decide

/-! ## Control flow, group T-CF -/

/-- CF1. -/
theorem test_jp :
    after (run State.reset 0x1ABC) (fun t => t.pc) = some 0x0ABC := by decide

/-- CF3, CF25. -/
theorem test_jp_0xFFF_then_faults :
    after (run State.reset 0x1FFF) (fun t => (t.pc, t.halt)) = some (0x0FFF, false) ∧
    after (step (State.reset.setPc 0x0FFF)) (fun t => (t.halt, t.fault, t.pc)) =
      some (true, .outOfBoundsAccess 0x1000, 0x0FFF) := by decide

/-- CF5. -/
theorem test_call :
    after (run (State.reset.setPc 0x0204) 0x2300) (fun t => (t.stack[0], t.sp.val, t.pc)) =
      some (0x0204, 1, 0x0300) := by decide

/-- CF9. -/
theorem test_call_on_full_stack :
    after (run (depth 16 0x0200) 0x2200) (fun t => (t.halt, t.fault, t.sp.val, t.pc)) =
      some (true, .stackOverflow, 16, 0x0200) := by decide

/-- CF6. -/
theorem test_ret :
    after (run ((depth 1 0x0204).setPc 0x0300) 0x00EE) (fun t => (t.sp.val, t.pc, t.stack[0])) =
      some (0, 0x0206, 0x0204) := by decide

/-- CF7. -/
theorem test_ret_on_empty_stack :
    after (run State.reset 0x00EE) (fun t => (t.halt, t.fault, t.sp.val, t.pc)) =
      some (true, .stackUnderflow, 0, 0x0200) := by decide

/-- CF27. -/
theorem test_sys_faults :
    after (run State.reset 0x0123) (fun t => (t.halt, t.fault, t.pc)) =
      some (true, .unsupportedInstruction 0x0123, 0x0200) := by decide

/-- CF28, CF29. -/
theorem test_sys_policies :
    after (run (withParams { defaultParams with sysPolicy := .call }) 0x0123) (fun t => (t.stack[0], t.sp.val, t.pc)) =
      some (0x0200, 1, 0x0123) ∧
    after (run (withParams { defaultParams with sysPolicy := .nop }) 0x0123) (fun t => (t.pc, t.sp.val, t.halt)) =
      some (0x0202, 0, false) := by
  decide

/-- CF12. -/
theorem test_jp_v0 :
    after (run (regs [(0, 0x00), (3, 0x40)]) 0xB300) (fun t => t.pc) = some 0x0300 := by decide

/-- CF11. -/
theorem test_jp_v0_above_memory :
    after (run (regs [(0, 0xFF)]) 0xBFFF) (fun t => (t.pc, t.halt)) = some (0x10FE, false) := by decide

/-- CF13, CF14. -/
theorem test_se_const :
    after (run (regs [(0xE, 0x45)]) 0x3E45) (fun t => t.pc) = some 0x0204 ∧
    after (run (regs [(0xE, 0x44)]) 0x3E45) (fun t => t.pc) = some 0x0202 := by decide

/-- CF15, CF16. -/
theorem test_sne_const :
    after (run (regs [(0xE, 0x45)]) 0x4E45) (fun t => t.pc) = some 0x0202 ∧
    after (run (regs [(0xE, 0x44)]) 0x4E45) (fun t => t.pc) = some 0x0204 := by decide

/-- CF17, CF18. -/
theorem test_se_reg :
    after (run (regs [(1, 0x7F), (2, 0x7F)]) 0x5120) (fun t => t.pc) = some 0x0204 ∧
    after (run (regs [(1, 0x7F), (2, 0x7E)]) 0x5120) (fun t => t.pc) = some 0x0202 := by decide

/-- CF19, CF20. -/
theorem test_sne_reg :
    after (run (regs [(1, 0x01), (2, 0x02)]) 0x9120) (fun t => t.pc) = some 0x0204 ∧
    after (run (regs [(1, 0x02), (2, 0x02)]) 0x9120) (fun t => t.pc) = some 0x0202 := by decide

/-- CF23. -/
theorem test_skip_to_the_edge :
    after (run (State.reset.setPc 0x0FFC) 0x3000) (fun t => (t.pc, t.halt)) = some (0x1000, false) := by decide

/-! ## Constants, logic, arithmetic and shifts, groups T-CL and T-AR -/

/-- CL3. -/
theorem test_ld_const_vf :
    after (run (regs []) 0x6FAB) (fun t => t.getV vf) = some 0xAB := by decide

/-- CL5. -/
theorem test_add_const_no_flag :
    after (run (regs [(3, 0xFF), (0xF, 0x55)]) 0x7301) (fun t => (t.getV 3, t.getV vf)) =
      some (0x00, 0x55) := by decide

/-- CL13. -/
theorem test_ld_reg :
    after (run (regs [(1, 0x12)]) 0x8F10) (fun t => t.getV vf) = some 0x12 := by decide

/-- CL14. -/
theorem test_or :
    after (run (regs [(1, 0x12), (0xF, 0x01)]) 0x8F11) (fun t => t.getV vf) = some 0x13 := by decide

/-- CL10. -/
theorem test_and :
    after (run (regs [(1, 0xF0), (2, 0x3C)]) 0x8122) (fun t => t.getV 1) = some 0x30 := by decide

/-- CL11. -/
theorem test_xor :
    after (run (regs [(1, 0xF0), (2, 0x3C)]) 0x8123) (fun t => t.getV 1) = some 0xCC := by decide

/-- AR1, S2. -/
theorem test_add_carry :
    after (run (regs [(1, 0xFF), (2, 0x01), (0xF, 0x77)]) 0x8124) (fun t => (t.getV 1, t.getV 2, t.getV vf)) =
      some (0x00, 0x01, 0x01) := by decide

/-- AR32. -/
theorem test_add_into_vf :
    after (run (regs [(0xF, 0x90)]) 0x8FF4) (fun t => t.getV vf) = some 0x20 := by decide

/-- AR6, S4. -/
theorem test_sub_borrow :
    after (run (regs [(1, 0x05), (2, 0x0A), (0xF, 0x77)]) 0x8125) (fun t => (t.getV 1, t.getV 2, t.getV vf)) =
      some (0xFB, 0x0A, 0x00) := by decide

/-- AR8. -/
theorem test_sub_equal :
    after (run (regs [(1, 0x07), (2, 0x07), (0xF, 0x77)]) 0x8125) (fun t => (t.getV 1, t.getV vf)) =
      some (0x00, 0x01) := by decide

/-- AR11. -/
theorem test_subn :
    after (run (regs [(1, 0x05), (2, 0x0A), (0xF, 0x77)]) 0x8127) (fun t => (t.getV 1, t.getV vf)) =
      some (0x05, 0x01) := by decide

/-- AR36. -/
theorem test_subn_from_vf :
    after (run (regs [(1, 0x02), (0xF, 0x01)]) 0x81F7) (fun t => (t.getV 1, t.getV vf)) =
      some (0xFF, 0x00) := by decide

/-- AR14. -/
theorem test_shr :
    after (run (regs [(1, 0x05), (2, 0xAA), (0xF, 0x77)]) 0x8126) (fun t => (t.getV 1, t.getV 2, t.getV vf)) =
      some (0x02, 0xAA, 0x01) := by decide

/-- AR19. -/
theorem test_shl :
    after (run (regs [(1, 0x81), (2, 0xAA), (0xF, 0x77)]) 0x812E) (fun t => (t.getV 1, t.getV 2, t.getV vf)) =
      some (0x02, 0xAA, 0x01) := by decide

/-- The start of AR23 to AR26: `SHIFT_USES_VY`, `V[1] = 05`, `V[2] = b`. -/
def vyState (b : Byte) : State := ((withParams { defaultParams with shiftUsesVy := true }).setV 1 0x05).setV 2 b

/-- AR24. -/
theorem test_shr_uses_vy :
    after (run (vyState 0xAB) 0x8126) (fun t => (t.getV 1, t.getV 2, t.getV vf)) = some (0x55, 0xAB, 0x01) := by decide

/-- AR25. -/
theorem test_shl_uses_vy :
    after (run (vyState 0xAA) 0x812E) (fun t => (t.getV 1, t.getV 2, t.getV vf)) = some (0x54, 0xAA, 0x01) := by decide

/-! ## Index register and random, group T-IX -/

/-- IX1. -/
theorem test_ld_index :
    after (run State.reset 0xA2F0) (fun t => (t.idx, t.pc)) = some (0x02F0, 0x0202) := by decide

/-- A state for `ADD I,Vx`: the flag setting, `I` and `V[2]`, and `VF = 77`. -/
def indexState (legacy : Bool) (i : Word) (b : Byte) : State :=
  (((withParams { defaultParams with legacyIOverflowFlag := legacy }).setIdx i).setV 2 b).setV vf 0x77

/-- IX2, IX7. -/
theorem test_add_index_default :
    after (run (indexState false 0x0FFF 0x01) 0xF21E) (fun t => (t.idx, t.getV vf, t.halt)) =
      some (0x1000, 0x77, false) ∧
    after (run (indexState false 0xFFFF 0x01) 0xF21E) (fun t => (t.idx, t.getV vf)) = some (0x0000, 0x77) := by decide

/-- IX5, IX8. -/
theorem test_add_index_legacy :
    after (run (indexState true 0x0FF0 0x0F) 0xF21E) (fun t => (t.idx, t.getV vf)) = some (0x0FFF, 0x00) ∧
    after (run (indexState true 0xFF01 0xFF) 0xF21E) (fun t => (t.idx, t.getV vf)) = some (0x0000, 0x01) := by decide

/-- IX12: whatever the free byte is. -/
theorem test_rnd_masks : after (exec (.random 3 0x00) State.reset) (fun t => (t.getV 3, t.pc)) = some (0x00, 0x0202) := by
  have h : Config.rnd 0 &&& 0#8 = 0#8 := BitVec.and_zero
  show some ((State.reset.v.set 3 (Config.rnd 0 &&& 0#8))[3], _) = _
  rw [h]
  rfl

/-! ## Display, group T-DS -/

/-- The reset state with sprite bytes at 0x300, `I = 0300`, and `V[0]`, `V[1]`. -/
def spriteState (bytes : List Byte) (a b : Byte) : State :=
  (((State.reset.writeBytes 0x300 bytes).setIdx 0x0300).setV 0 a).setV 1 b

/-- DS1, with every pixel set. -/
theorem test_cls :
    after (run ((State.reset.setFb (Vector.replicate 32 (Vector.replicate 64 true))).setV vf 0x07) 0x00E0)
      (fun t => (columns t 3, t.dirty, t.getV vf, t.pc)) = some ([], true, 0x07, 0x0202) := by decide

/-- S8 (DS7), DS9. -/
theorem test_drw_wraps :
    after (run (spriteState [0xFF] 0x3E 0x00) 0xD011) (fun t => (columns t 0, t.getV vf, t.dirty)) =
      some ([0, 1, 2, 3, 4, 5, 62, 63], 0x00, true) ∧
    after (run (spriteState [0x80] 0x46 0xFF) 0xD011) (fun t => (columns t 31, columns t 0)) =
      some ([6], []) := by decide

/-- DS16. -/
theorem test_drw_out_of_range :
    after (run ((State.reset.setIdx 0x0FFF).setV vf 0x55) 0xD012) (fun t => (t.fault, t.getV vf, t.dirty, t.pc)) =
      some (.outOfBoundsAccess 0x1000, 0x55, false, 0x0200) := by decide

/-! ## Keypad and timers, group T-KT -/

/-- KT5. -/
theorem test_skp_low_four_bits :
    after (run ((regs [(4, 0x1A)]).setKey 0xA true) 0xE49E) (fun t => t.pc) = some 0x0204 := by decide

/-- KT2. -/
theorem test_skp_other_key :
    after (run ((regs [(4, 0x07)]).setKey 0x6 true) 0xE49E) (fun t => t.pc) = some 0x0202 := by decide

/-- KT6. -/
theorem test_sknp_pressed :
    after (run ((regs [(4, 0xF7)]).setKey 0x7 true) 0xE4A1) (fun t => t.pc) = some 0x0202 := by decide

/-- KT4. -/
theorem test_sknp_no_key :
    after (run (regs [(4, 0x07)]) 0xE4A1) (fun t => t.pc) = some 0x0204 := by decide

/-- KT7. -/
theorem test_wait_key_holds :
    after (run (regs [(5, 0xEE)]) 0xF50A) (fun t => (t.pc, t.getV 5, t.halt)) = some (0x0200, 0xEE, false) := by decide

/-- KT10. -/
theorem test_wait_key_lowest :
    after (run ((State.reset.setKey 0xC true).setKey 0x3 true) 0xF50A) (fun t => (t.getV 5, t.pc)) =
      some (0x03, 0x0202) := by decide

/-- KT14, its last step. -/
theorem test_ld_from_dt :
    after (run (State.reset.setDt 0x3A) 0xF307) (fun t => (t.getV 3, t.dt)) = some (0x3A, 0x3A) := by decide

/-- KT13. -/
theorem test_ld_to_dt :
    after (run (regs [(2, 0x3C)]) 0xF215) (fun t => (t.dt, t.st)) = some (0x3C, 0x00) := by decide

/-- KT15. -/
theorem test_ld_to_st :
    after (run (regs [(2, 0x05)]) 0xF218) (fun t => (t.st, t.sound)) = some (0x05, true) := by decide

/-! ## Font, BCD, dump and load, group T-MO -/

/-- MO4. -/
theorem test_font_low_four_bits :
    after (run (regs [(3, 0x1A)]) 0xF329) (fun t => t.idx) = some 0x0032 := by decide

/-- MO3. -/
theorem test_font_last_glyph :
    after (run (regs [(3, 0x0F)]) 0xF329) (fun t => t.idx) = some 0x004B := by decide

/-- S6, MO7. -/
theorem test_bcd :
    after (run ((regs [(3, 0xFF)]).setIdx 0x0300) 0xF333) (fun t => (t.readBytes 0x300 3, t.idx)) =
      some ([2, 5, 5], 0x0300) ∧
    after (run ((regs [(3, 123)]).setIdx 0x0FFD) 0xF333) (fun t => (t.readBytes 0xFFD 3, t.halt)) =
      some ([1, 2, 3], false) := by decide

/-- MO8. -/
theorem test_bcd_out_of_range :
    after (run ((regs [(3, 123)]).setIdx 0x0FFE) 0xF333) (fun t => (t.fault, t.readBytes 0xFFE 2)) =
      some (.outOfBoundsAccess 0x1000, [0, 0]) := by decide

/-- `V[k] = 10 + k` and `I`, the start of MO10 to MO13. -/
def dumpState (i : Word) : State := { State.reset with v := Vector.ofFn (fun k => BitVec.ofNat 8 (16 + k.val)), idx := i }

/-- S7 (MO10). -/
theorem test_dump :
    after (run (dumpState 0x0300) 0xFF55) (fun t => (t.readBytes 0x300 17, t.idx)) =
      some ((List.range 16).map (fun k => BitVec.ofNat 8 (16 + k)) ++ [0], 0x0300) := by decide

/-- MO13. -/
theorem test_dump_out_of_range :
    after (run (dumpState 0x0FFD) 0xF355) (fun t => (t.fault, t.readBytes 0xFFD 3)) =
      some (.outOfBoundsAccess 0x1000, [0, 0, 0]) := by decide

/-- MO16. -/
theorem test_load :
    after (run (((regs [(3, 0x99)]).writeBytes 0x300 [0x11, 0x22, 0x33, 0x44]).setIdx 0x0300) 0xF265)
      (fun t => (t.getV 0, t.getV 1, t.getV 2, t.getV 3, t.idx)) =
      some (0x11, 0x22, 0x33, 0x99, 0x0300) := by decide

/-- MO19. -/
theorem test_load_first_font_byte :
    after (run State.reset 0xF065) (fun t => t.getV 0) = some 0xF0 := by decide

/-! ## The machine and the outside -/

/-- CF30. -/
theorem test_reset_runs_sys_and_halts :
    after (step State.reset) (fun t => (t.halt, t.fault)) = some (true, .unsupportedInstruction 0x0000) := by decide

/-- A halted state with the given agenda. -/
def haltedWith (a : List Config.Event) : State := ((State.reset.setDt 0x03).raise (.unsupportedInstruction 0xFFFF)).setAgenda a

theorem test_halted_machine_cannot_step : step (haltedWith []) = .fault .halted := rfl

/-- KT19. -/
theorem test_halted_machine :
    after (step (haltedWith [.tick])) (fun t => (t.dt, t.halt)) = some (0x02, true) ∧
    after (step (haltedWith [.keyEvent 2 true])) (fun t => t.key 2) = some true ∧
    after (step (haltedWith [.step])) (fun t => (t.halt, t.fault, t.dt)) =
      some (true, .unsupportedInstruction 0xFFFF, 0x03) := by decide

/-- KT17, KT18. -/
theorem test_tick :
    after (step (((State.reset.setDt 0x01).setSt 0xFF).setAgenda [.tick])) (fun t => (t.dt, t.st)) =
      some (0x00, 0xFE) ∧
    after (step (State.reset.setAgenda [.tick])) (fun t => (t.dt, t.st)) = some (0x00, 0x00) := by decide

/-- KT20. -/
theorem test_present_ack :
    after (step ((State.reset.setDirty true).setAgenda [.presentAck])) (fun t => t.dirty) = some false := by decide

/-- S11, its first event, on a halted machine. -/
theorem test_load_image :
    after (step ((haltedWith []).setAgenda [.loadImage [0x60, 0x05, 0x70, 0x03]]))
      (fun t => (t.readBytes 0x200 5, t.pc, t.halt, t.dt)) =
      some ([0x60, 0x05, 0x70, 0x03, 0x00], 0x0200, false, 0x00) := by decide

theorem test_long_image_is_refused (bytes : List Byte) (h : 3584 < bytes.length) :
    step (State.reset.setAgenda [.loadImage bytes]) = .refused .imageTooLong := by
  show (if bytes.length ≤ 3584 then _ else _) = _
  rw [if_neg (by omega)]

/-- R107: `SHR V1` leaves `Vy` out, and stands for the encoding with `y = 0`. -/
theorem test_assemble_shr : assemble ⟨.shr, [.v 1]⟩ = some (.shiftRight 1 0) ∧
    (assemble ⟨.ld, [.atIndex, .v 3]⟩).map encode = some 0xF355 := by decide

/-! ## Witnesses for the statements of Sys2Proof/Certificates/Slice0/Obligations.lean -/

theorem witness_DecodeInvertsEncode : (Instr.sys 0x0E1).wellFormed = true ∧ (Instr.dumpRegs 0xF).wellFormed = true := by
  decide

theorem witness_EncodeInvertsDecode : decode 0xD12F = .ok (.draw 0x1 0x2 0xF) := by decide

theorem witness_OnlyFamilyZeroRowsOverlap : opcodeMap.length = 35 ∧ 1 < opcodeMap.length ∧ 2 < opcodeMap.length := by
  decide

theorem witness_IllegalWordsAreExactly :
    [0x5001, 0x8128, 0x812F, 0x9121, 0xE09F, 0xF066].map (fun w : Word => decode w) =
      [0x5001, 0x8128, 0x812F, 0x9121, 0xE09F, 0xF066].map (fun w => .error (.unsupportedInstruction w)) := by decide

theorem witness_SysFollowsPolicy :
    State.reset.params.sysPolicy = .fault ∧
    (withParams { defaultParams with sysPolicy := .call }).params.sysPolicy = .call ∧
    (withParams { defaultParams with sysPolicy := .nop }).params.sysPolicy = .nop := by decide

theorem witness_JumpSetsPc : ∃ t, exec (.jump 0xFFF) State.reset = .next t := ⟨_, rfl⟩

theorem witness_CallPushesAndJumps : State.reset.sp.val < 16 ∧ (depth 15 0x0200).sp.val < 16 := by decide

theorem witness_CallOnFullStackFaults : (depth 16 0x0200).sp.val = 16 := by decide

theorem witness_ReturnPopsAndAdvances :
    (depth 1 0x0204).sp.val = (0 : Fin 16).val + 1 ∧ (depth 16 0x0204).sp.val = (15 : Fin 16).val + 1 := by decide

theorem witness_ReturnOnEmptyStackFaults : State.reset.sp.val = 0 := by decide

/-- The subroutine has changed a register and `pc`. -/
theorem witness_ReturnResumesAfterCall :
    ∃ t u : State, (depth 15 0x0204).sp.val < 16 ∧ exec (.call 0x300) (depth 15 0x0204) = .next t ∧ Same .stack t u ∧
      u.pc ≠ t.pc ∧ u.getV 3 ≠ t.getV 3 := by
  refine ⟨_, (((depth 15 0x0204).push 0x0200 (by decide)).setPc 0x0302).setV 3 0x01, by decide, rfl, ⟨rfl, fun j => rfl⟩,
    by decide, by decide⟩

/-- Each clause, at 0xFFC. -/
theorem witness_ConstantSkips : (State.reset.setPc 0x0FFC).pc = 0xFFC ∧ (State.reset.setPc 0x0FFC).getV 3 = 0x00 ∧
    (State.reset.setPc 0x0FFC).getV 3 ≠ 0x01 := by decide

theorem witness_AssignAndBitwiseOps (x y : Nibble) : ∃ f g h k : Bool → Bool → Bool,
    (Instr.assign x y = .assign x y ∧ f = fun _ b => b) ∧ (Instr.orReg x y = .orReg x y ∧ g = fun a b => a || b) ∧
    (Instr.andReg x y = .andReg x y ∧ h = fun a b => a && b) ∧ (Instr.xorReg x y = .xorReg x y ∧ k = fun a b => a != b) :=
  ⟨_, _, _, _, ⟨rfl, rfl⟩, ⟨rfl, rfl⟩, ⟨rfl, rfl⟩, ⟨rfl, rfl⟩⟩

theorem witness_flag_clauses : (0 : Nibble) ≠ vf ∧ (14 : Nibble) ≠ vf := by decide

theorem witness_ShiftsMoveBitToFlag :
    (0x05 : Byte) = (if (vyState 0xAB).params.shiftUsesVy = true then 0x05 else (vyState 0xAB).getV 1) ∧
    (0xAB : Byte) = (if (vyState 0xAB).params.shiftUsesVy = true then (vyState 0xAB).getV 2 else (vyState 0xAB).getV 1) ∧
    (0x05 : Byte) = (if (regs [(1, 5)]).params.shiftUsesVy = true then (regs [(1, 5)]).getV 2 else (regs [(1, 5)]).getV 1) := by
  decide

theorem witness_RandomByteUnderMask : (0x0F : Byte).getLsbD 7 = false := by decide

theorem witness_DrawXorsSprite :
    ((0 : Nibble) = 0 ∨ (State.reset.setIdx 0xFFFF).idx.toNat + (0 : Nibble).toNat ≤ 0x1000) ∧
    ((15 : Nibble) = 0 ∨ (State.reset.setIdx 0x0FF1).idx.toNat + (15 : Nibble).toNat ≤ 0x1000) := by decide

/-- Two draws of the glyph "0", the first of them on an empty screen. -/
theorem witness_DrawTwiceRestoresScreen : ∃ t u : State,
    State.reset.idx.toNat + (5 : Nibble).toNat ≤ 0x1000 ∧ exec (.draw 0 1 5) State.reset = .next t ∧ Same .screen t u ∧
      Same .memory State.reset u ∧ u.idx = State.reset.idx ∧ u.getV 0 = State.reset.getV 0 ∧
      u.getV 1 = State.reset.getV 1 :=
  ⟨_, State.reset.drawSprite 0 1 5, by decide, rfl, fun _ _ => rfl, fun _ => rfl, rfl, rfl, rfl⟩

theorem witness_KeySkips : (0xA : Nibble).toNat = ((regs [(4, 0x1A)]).getV 4).toNat % 16 := by decide

theorem witness_WaitKeyTakesLowestKey :
    ((State.reset.setKey 15 true).key 15 = true ∧
      ∀ j : Nibble, j.toNat < (15 : Nibble).toNat → (State.reset.setKey 15 true).key j = false) ∧
    ((State.reset.setKey 0 true).key 0 = true ∧
      ∀ j : Nibble, j.toNat < (0 : Nibble).toNat → (State.reset.setKey 0 true).key j = false) := by decide

theorem witness_WaitKeyHolds : ∀ k, State.reset.key k = false := by decide

theorem witness_BcdStoresThreeDigits : (State.reset.setIdx 0x0FFD).idx.toNat + 2 ≤ 0xFFF := by decide

theorem witness_DumpStoresRegisters :
    (State.reset.setIdx 0x0FFF).idx.toNat + (0 : Nibble).toNat ≤ 0xFFF ∧
    (State.reset.setIdx 0x0FF0).idx.toNat + (15 : Nibble).toNat ≤ 0xFFF := by decide

theorem witness_LoadReadsRegisters :
    (State.reset.setIdx 0x0FFC).idx.toNat + (3 : Nibble).toNat ≤ 0xFFF ∧
    (0 : Nibble).toNat ≤ (3 : Nibble).toNat ∧ (3 : Nibble).toNat < (4 : Nibble).toNat := by decide

/-- The lowest `I` of each clause, and one above memory. -/
theorem witness_RangeFaultBeforeAnyWrite :
    0xFFF < (State.reset.setIdx 0x0FFE).idx.toNat + 2 ∧
    0xFFF < (State.reset.setIdx 0x0FFD).idx.toNat + (3 : Nibble).toNat ∧
    0xFFF < (State.reset.setIdx 0x1000).idx.toNat + (0 : Nibble).toNat ∧
    ((15 : Nibble).toNat = 14 + 1 ∧ 0xFFF < (State.reset.setIdx 0x0FF2).idx.toNat + 14) ∧
    ((1 : Nibble).toNat = 0 + 1 ∧ 0xFFF < (State.reset.setIdx 0xFFFF).idx.toNat + 0) := by decide

theorem witness_DumpThenLoadRestores : ∃ t u : State,
    (dumpState 0x0300).idx.toNat + (15 : Nibble).toNat ≤ 0xFFF ∧ exec (.dumpRegs 15) (dumpState 0x0300) = .next t ∧
      Same .memory t u ∧ u.idx = (dumpState 0x0300).idx ∧ u.getV 3 ≠ t.getV 3 :=
  ⟨_, ((dumpState 0x0300).writeBytes 0x300 ((dumpState 0x0300).firstRegs 16)).setV 3 0x77, by decide, rfl,
    fun _ => rfl, rfl, by decide⟩

/-- MO20, at its second step, where `b` is what memory then holds. -/
theorem witness_StoredWordIsFetched : ∃ (t : State) (b : Nat → Byte),
    exec (.dumpRegs 1) ((regs [(0, 0x6A), (1, 0x42)]).setIdx 0x0202) = .next t ∧
      (0x0202 : Word).toNat + (1 : Nibble).toNat ≤ 0xFFF ∧
      (∀ a, b a = if 0x202 ≤ a ∧ a ≤ 0x202 + 1 then (regs [(0, 0x6A), (1, 0x42)]).getV (BitVec.ofNat 4 (a - 0x202))
        else State.reset.readByte a) ∧
      (State.reset.pc + 2).toNat ≤ 0xFFE ∧
      decode (BitVec.ofNat 16 ((b 0x202).toNat * 256 + (b (0x202 + 1)).toNat)) = .ok (.setConst 0xA 0x42) :=
  ⟨_, _, rfl, by decide, fun _ => rfl, by decide, by decide⟩

/-- A BCD store of 123 over the next instruction leaves the word 0x0203 when its last two digits are that word. -/
theorem witness_StoredWordIsFetched_bcd : ∃ (t : State) (b : Nat → Byte),
    exec (.storeBcd 3) ((regs [(3, 123)]).setIdx 0x0201) = .next t ∧ (0x0201 : Word).toNat + 2 ≤ 0xFFF ∧
      (∀ a, b a = if a = 0x201 then BitVec.ofNat 8 (123 / 100) else if a = 0x201 + 1 then BitVec.ofNat 8 (123 / 10 % 10)
        else if a = 0x201 + 2 then BitVec.ofNat 8 (123 % 10) else State.reset.readByte a) ∧
      decode (BitVec.ofNat 16 ((b 0x202).toNat * 256 + (b (0x202 + 1)).toNat)) = .ok (.sys 0x203) :=
  ⟨_, _, rfl, by decide, fun _ => rfl, by decide⟩

/-- The word at the reset `pc`, each clause of whose turn it is, and the highest address that can be fetched. -/
theorem witness_StepRunsDecodedInstruction :
    State.reset.halt = false ∧ State.reset.pc.toNat ≤ 0xFFE ∧ (State.reset.setPc 0x0FFE).pc.toNat ≤ 0xFFE ∧
    decode (BitVec.ofNat 16 ((State.reset.readByte State.reset.pc.toNat).toNat * 256 +
      (State.reset.readByte (State.reset.pc.toNat + 1)).toNat)) = .ok (.sys 0x000) ∧
    CoreTurn State.reset State.reset ∧
    CoreTurn (State.reset.setAgenda [.step, .tick]) (State.reset.setAgenda [.tick]) := by
  exact ⟨by decide, by decide, by decide, by decide, .inl ⟨rfl, rfl⟩, .inr ⟨rfl, rfl⟩⟩

theorem witness_PlacedWordRuns : (haltedWith [.tick]).pc.toNat ≤ 0xFFE ∧ 0xFFFF < 65536 ∧
    decode (BitVec.ofNat 16 0x8124) = .ok (.addReg 1 2) ∧
    (haltedWith [.tick]).withFetchWord 16 0x8124 = (haltedWith [.tick]).withFetchWord 16 0x8124 := by
  exact ⟨by decide, by decide, by decide, rfl⟩

theorem witness_FetchOutsideMemoryFaults :
    (CoreTurn (State.reset.setPc 0x0FFF) (State.reset.setPc 0x0FFF) ∧ (State.reset.setPc 0x0FFF).halt = false ∧
      0xFFE < (State.reset.setPc 0x0FFF).pc.toNat) ∧
    0xFFE < (State.reset.setPc 0x10FE).pc.toNat := by
  exact ⟨⟨.inl ⟨rfl, rfl⟩, by decide, by decide⟩, by decide⟩

theorem witness_FetchOutsideMemoryFaults_due :
    CoreTurn ((State.reset.setPc 0x0FFF).setAgenda [.step]) (State.reset.setPc 0x0FFF) ∧
      ((State.reset.setPc 0x0FFF).setAgenda [.step]).halt = false ∧
      0xFFE < ((State.reset.setPc 0x0FFF).setAgenda [.step]).pc.toNat :=
  ⟨.inr ⟨rfl, rfl⟩, by decide, by decide⟩

theorem witness_UnsupportedWordFaults : ∃ s : State, CoreTurn s s ∧ s.halt = false ∧ s.pc.toNat ≤ 0xFFE ∧
    0x8128#16 = BitVec.ofNat 16 ((s.readByte s.pc.toNat).toNat * 256 + (s.readByte (s.pc.toNat + 1)).toNat) ∧
    decode 0x8128#16 = .error (.unsupportedInstruction 0x8128) :=
  ⟨State.reset.withFetchWord 16 0x8128, .inl ⟨rfl, rfl⟩, by decide, by decide, by decide, by decide⟩

theorem witness_UnsupportedWordFaults_due : ∃ s u : State, s.due = some .step ∧ CoreTurn s u ∧ s.halt = false ∧
    s.pc.toNat ≤ 0xFFE ∧
    0x8128#16 = BitVec.ofNat 16 ((s.readByte s.pc.toNat).toNat * 256 + (s.readByte (s.pc.toNat + 1)).toNat) ∧
    decode 0x8128#16 = .error (.unsupportedInstruction 0x8128) :=
  ⟨(State.reset.withFetchWord 16 0x8128).setAgenda [.step, .tick], (State.reset.withFetchWord 16 0x8128).setAgenda [.tick],
    rfl, .inr ⟨rfl, rfl⟩, by decide, by decide, by decide, by decide⟩

theorem witness_FaultsArePrecise : ∃ t : State, State.reset.halt = false ∧ coreStep State.reset = .next t ∧ t.halt = true :=
  ⟨State.reset.raise (.unsupportedInstruction 0x0000), by decide, rfl, by decide⟩

theorem witness_HaltedMachineKeepsRecord :
    (haltedWith []).halt = true ∧ (haltedWith []).due = none ∧
    (∃ t, step (haltedWith [.tick]) = .next t ∧ (haltedWith [.tick]).due ≠ some .reset ∧
      ∀ bytes, (haltedWith [.tick]).due ≠ some (.loadImage bytes)) :=
  ⟨by decide, rfl, _, rfl, fun h => (by cases h), fun _ h => (by cases h)⟩

theorem witness_StepStopsOnlyWhereNothingCanMove :
    step (haltedWith []) = .fault .halted ∧ 3584 < (List.replicate 3585 (0 : Byte)).length := by
  exact ⟨rfl, by rw [List.length_replicate]; decide⟩

/-- The invariant is met by a state with a call under way and a byte stored, which takes a step. -/
theorem witness_StepKeepsInvariant :
    (((depth 1 0x0204).writeByte 0x300 0x01).setPc 0x0300).Inv ∧
      ∃ t, step (((depth 1 0x0204).writeByte 0x300 0x01).setPc 0x0300) = .next t :=
  ⟨⟨by decide, by decide, by decide⟩, _, rfl⟩

theorem witness_ProgramCounterBound : (∀ j : Fin 16, (depth 16 0x0FFE).stack[j].toNat ≤ 0xFFE) ∧
    (depth 16 0x0FFE).pc.toNat ≤ 0xFFE ∧ ∃ t, coreStep (depth 16 0x0FFE) = .next t :=
  ⟨by decide, by decide, _, rfl⟩

theorem witness_StackTouchedOnlyByCallsAndReturns : ∃ t : State, exec (.sys 0x123) State.reset = .next t ∧
    (∀ nnn, Instr.sys 0x123 ≠ .call nnn) ∧ Instr.sys 0x123 ≠ .ret ∧ State.reset.params.sysPolicy ≠ .call :=
  ⟨_, rfl, fun _ h => (by cases h), by decide, by decide⟩

theorem witness_IndexWrittenOnlyByThree : ∃ t : State, exec (.loadRegs 3) State.reset = .next t ∧
    (∀ nnn, Instr.loadRegs 3 ≠ .setIndex nnn) ∧ (∀ x, Instr.loadRegs 3 ≠ .addIndex x) ∧
    ∀ x, Instr.loadRegs 3 ≠ .fontAddr x :=
  ⟨_, rfl, fun _ h => (by cases h), fun _ h => (by cases h), fun _ h => (by cases h)⟩

theorem witness_RegistersWrittenOnlyAsNamed :
    (∃ t : State, exec (.addReg 1 2) State.reset = .next t ∧ namesDestination 3 (.addReg 1 2) = false ∧ (3 : Nibble) ≠ vf) ∧
    (∃ t : State, exec (.addIndex 2) State.reset = .next t ∧ namesDestination vf (.addIndex 2) = false ∧
      flagWriter State.reset.params (.addIndex 2) = false) :=
  ⟨⟨_, rfl, by decide, by decide⟩, ⟨_, rfl, by decide, by decide⟩⟩

theorem witness_DevicesWrittenOnlyByTheirInstructions : ∃ t : State, exec (.addReg 1 2) State.reset = .next t ∧
    (∀ x, Instr.addReg 1 2 ≠ .storeBcd x) ∧ (∀ x, Instr.addReg 1 2 ≠ .dumpRegs x) ∧ Instr.addReg 1 2 ≠ .clearScreen ∧
    (∀ x y n, Instr.addReg 1 2 ≠ .draw x y n) ∧ (∀ x, Instr.addReg 1 2 ≠ .setDelay x) ∧
    (∀ x, Instr.addReg 1 2 ≠ .setSound x) ∧ ∀ x kk, Instr.addReg 1 2 ≠ .random x kk :=
  ⟨_, rfl, fun _ h => (by cases h), fun _ h => (by cases h), by decide, fun _ _ _ h => (by cases h),
    fun _ h => (by cases h), fun _ h => (by cases h), fun _ _ h => (by cases h)⟩

theorem witness_SoundAndDirtyNeverRead : ∃ t : State, exec (.draw 0 1 5) State.reset = .next t := ⟨_, rfl⟩

theorem witness_events : (haltedWith [.tick]).due = some .tick ∧
    (haltedWith [.keyEvent 2 true]).due = some (.keyEvent 2 true) ∧ (haltedWith [.presentAck]).due = some .presentAck ∧
    (haltedWith [.reset]).due = some .reset ∧ (haltedWith [.loadImage []]).due = some (.loadImage []) := by
  exact ⟨rfl, rfl, rfl, rfl, rfl⟩

/-- From reset with an outside that goes on, the event due is the free one. -/
theorem witness_free_schedule : (State.resetWithOutside defaultParams).due = some (Config.schedule 0) ∧
    (State.resetWithOutside defaultParams).consume.due = some (Config.schedule 1) := ⟨rfl, rfl⟩

/-- One agenda cut short, and one state with the free schedule behind its agenda: the event due is the same. -/
theorem witness_EffectIgnoresWhatComesLater :
    (((haltedWith [.tick, .reset]).setAgenda [.tick]).setSupply (some 7)).due = (haltedWith [.tick, .reset]).due ∧
    ∃ t, step (haltedWith [.tick, .reset]) = .next t := ⟨rfl, _, rfl⟩

/-- The longest image and one byte more. -/
theorem witness_LoadImageCopiesAfterReset :
    (List.replicate 3584 (0 : Byte)).length ≤ 3584 ∧ 3584 < (List.replicate 3585 (0 : Byte)).length := by
  rw [List.length_replicate, List.length_replicate]
  decide

/-- An event on the agenda; the free schedule, for one event it may hold; neither. -/
theorem witness_AgendaConsumedAndParamsKept : (∃ t, step (haltedWith [.step, .tick]) = .next t) ∧
    (Config.schedule 0 = .tick → ∃ t, step (State.resetWithOutside defaultParams) = .next t) ∧
    ∃ t, step State.reset = .next t := by
  refine ⟨⟨_, rfl⟩, fun h => ⟨tick (State.resetWithOutside defaultParams).consume, ?_⟩, ⟨_, rfl⟩⟩
  show deliver (Config.schedule 0) _ = _
  rw [h]
  rfl

end Sys2Proof.Tests
end

section
/-! SUPPORT. An illegal word: the decoder's error carries the word itself (spec/30_encoding.md R97, R102), and the
fault it raises is the fault entry seen from outside (spec/60_exceptions.md R242, R246). -/

namespace Sys2Proof

variable {w : Word} {i : Instr} {d d' : Decoded} {c : Prop} [Decidable c]

/-! ## The record of a decode error, along the branches of the decoder (R102) -/

/-- If `d` is an error, its record is the word `w`. -/
def ReportsWord (w : Word) (d : Decoded) : Prop := ∀ raw, d = .error (.unsupportedInstruction raw) → raw = w

theorem ReportsWord.ok : ReportsWord w (.ok i) := nofun

theorem ReportsWord.error : ReportsWord w (.error (.unsupportedInstruction w)) := by
  rintro _ ⟨⟩
  rfl

theorem ReportsWord.ite (h : ReportsWord w d) (h' : ReportsWord w d') : ReportsWord w (if c then d else d') := by
  split
  · exact h
  · exact h'

theorem reportsWord_decodeFamily0 : ReportsWord w (decodeFamily0 w) :=
  .ite .ok <| .ite .ok .ok

theorem reportsWord_decodeLowNibbleZero : ReportsWord w (decodeLowNibbleZero w i) :=
  .ite .ok .error

theorem reportsWord_decodeFamily8 : ReportsWord w (decodeFamily8 w) :=
  .ite .ok <| .ite .ok <| .ite .ok <| .ite .ok <| .ite .ok <| .ite .ok <| .ite .ok <| .ite .ok <| .ite .ok .error

theorem reportsWord_decodeFamilyE : ReportsWord w (decodeFamilyE w) :=
  .ite .ok <| .ite .ok .error

theorem reportsWord_decodeFamilyF : ReportsWord w (decodeFamilyF w) :=
  .ite .ok <| .ite .ok <| .ite .ok <| .ite .ok <| .ite .ok <| .ite .ok <| .ite .ok <| .ite .ok <| .ite .ok .error

/-- One branch for each top nibble, in the order of R101. -/
theorem reportsWord_decode : ReportsWord w (decode w) :=
  .ite reportsWord_decodeFamily0 <| .ite .ok <| .ite .ok <| .ite .ok <| .ite .ok <|
  .ite reportsWord_decodeLowNibbleZero <| .ite .ok <| .ite .ok <| .ite reportsWord_decodeFamily8 <|
  .ite reportsWord_decodeLowNibbleZero <| .ite .ok <| .ite .ok <| .ite .ok <| .ite .ok <|
  .ite reportsWord_decodeFamilyE reportsWord_decodeFamilyF

theorem decode_error_raw {raw : Word} (h : decode w = .error (.unsupportedInstruction raw)) : raw = w :=
  reportsWord_decode raw h

end Sys2Proof

namespace Sys2Proof.Machine

variable {s u : State}

/-! ## The fault entry (R246) -/

theorem State.sameBut_latches_raise (s : State) (f : FaultRecord) : SameBut [.latches] s (s.raise f) := by
  intro p hp
  cases p with
  | latches => exact absurd (List.mem_singleton.mpr rfl) hp
  | stack => exact ⟨rfl, fun _ => rfl⟩
  | timers => exact ⟨rfl, rfl⟩
  | screen => exact fun _ _ => rfl
  | regs | memory | keys => exact fun _ => rfl
  | _ => exact rfl

/-- What an instruction that raises `f` does is the fault entry seen from outside. -/
theorem State.faulted_raise (s : State) (f : FaultRecord) : Faulted f s (s.raise f) :=
  ⟨rfl, rfl, s.sameBut_latches_raise f⟩

/-! ## The word at `pc` (R60, R242) -/

theorem CoreTurn.pc_eq (hu : CoreTurn s u) : u.pc = s.pc := by
  obtain ⟨a, o, rfl⟩ := hu.eq
  rfl

theorem CoreTurn.readByte_eq (hu : CoreTurn s u) (c : Nat) : u.readByte c = s.readByte c := by
  obtain ⟨a, o, rfl⟩ := hu.eq
  rfl

/-- A core step on an illegal word raises the fault with that word as its record. -/
theorem coreStep_of_decode_error {w raw : Word} (hpc : s.pc.toNat ≤ 0xFFE)
    (hw : w = wordOfBytes (s.readByte s.pc.toNat) (s.readByte (s.pc.toNat + 1)))
    (hd : decode w = .error (.unsupportedInstruction raw)) :
    coreStep s = .next (s.raise (.unsupportedInstruction w)) := by
  rcases coreStep_cases s with ⟨hout, _⟩ | ⟨_, w', hw', ⟨raw', hd', hstep⟩ | ⟨i, hd', _⟩⟩
  · omega
  · rw [hstep, decode_error_raw hd', hw', hw]
  · rw [hw', ← hw, hd] at hd'
    cases hd'

end Sys2Proof.Machine
end

section
/-! The statements of spec/20_memory.md. -/

open Sys2Proof Sys2Proof.Machine

/-- Settles O43: the core step on the word at `pc` raises its fault (`coreStep_of_decode_error`), and the state it
starts from has the `pc` and the memory of `s`. -/
theorem unsupportedWordFaults : Obligations.UnsupportedWordFaults := by
  intro s u w raw hturn hhalt hpc hw hd
  have hword : w = wordOfBytes (u.readByte u.pc.toNat) (u.readByte (u.pc.toNat + 1)) := by
    rw [hturn.pc_eq, hturn.readByte_eq, hturn.readByte_eq, wordOfBytes_eq, hw]
  have hstep : step s = .next (u.raise (.unsupportedInstruction w)) := by
    rw [step_of_coreTurn hturn hhalt, coreStep_of_decode_error (hturn.pc_eq ▸ hpc) hword hd]
  exact ⟨_, hstep, u.faulted_raise _⟩
end

section
/-! SUPPORT. What the instructions that only set `pc` leave unchanged, and the fetch fault one of them can lead to
(spec/40_control_flow.md R142, R146 to R149; spec/20_memory.md R64). -/

namespace Sys2Proof.Machine

variable {s : State} {c : Bool} {p : Prop} [Decidable p]

/-! ## Frames -/

theorem State.sameBut_pc_setPc (s : State) (a : Word) : SameBut [.pc] s (s.setPc a) := by
  intro q hq
  cases q with
  | pc => exact absurd (List.mem_singleton.mpr rfl) hq
  | stack => exact ⟨rfl, fun _ => rfl⟩
  | timers | latches => exact ⟨rfl, rfl⟩
  | screen => exact fun _ _ => rfl
  | regs | memory | keys => exact fun _ => rfl
  | _ => exact rfl

theorem State.sameBut_pc_skipIf (s : State) (c : Bool) : SameBut [.pc] s (s.skipIf c) :=
  s.sameBut_pc_setPc _

/-! ## Where a skip goes -/

theorem State.skipIf_pc_of_iff (h : c = true ↔ p) : (s.skipIf c).pc = if p then s.pc + 4 else s.pc + 2 := by
  rw [State.skipIf_pc, if_congr h rfl rfl]

/-! ## The fetch fault (R64) -/

/-- At 0xFFF only the second byte of the word is outside memory, at 0x1000 the first is: the same lowest address. -/
theorem lowestOutside_of_le {a : Nat} (h : a ≤ 0x1000) : lowestOutside a = 0x1000 := by
  rcases h.eq_or_lt with rfl | hlt
  · rfl
  · exact if_neg (by omega)

/-- A core step at 0xFFF or 0x1000 is the fault entry with the address 0x1000, and nothing else. -/
theorem coreStep_faults_at_memory_end (hlo : 0xFFE < s.pc.toNat) (hhi : s.pc.toNat ≤ 0x1000) :
    ∃ u, coreStep s = .next u ∧ Faulted (.outOfBoundsAccess 0x1000) s u := by
  rcases coreStep_cases s with ⟨_, hstep⟩ | ⟨hin, _⟩
  · rw [lowestOutside_of_le hhi] at hstep
    exact ⟨_, hstep, s.faulted_raise _⟩
  · omega

/-- A skip taken at 0xFFC lands on 0x1000. -/
theorem coreStep_faults_after_skip (hpc : s.pc = 0xFFC) (hc : c = true) :
    ∃ u, coreStep (s.skipIf c) = .next u ∧ Faulted (.outOfBoundsAccess 0x1000) (s.skipIf c) u := by
  have htarget : (s.skipIf c).pc = 0x1000 := by rw [State.skipIf_pc, if_pos hc, hpc]; rfl
  exact coreStep_faults_at_memory_end (by rw [htarget]; decide) (by rw [htarget]; decide)

end Sys2Proof.Machine
end

section
/-! The statements of spec/40_control_flow.md. -/

open Sys2Proof Sys2Proof.Machine

/-- Settles O9: the next state is `s.setPc nnn`, and at 0xFFF the word's second byte is outside memory. -/
theorem jumpSetsPc : Obligations.JumpSetsPc := by
  intro s nnn
  have hpc : (s.setPc (nnn.setWidth 16)).pc.toNat = nnn.toNat := BitVec.toNat_setWidth_of_le (by decide)
  refine ⟨_, rfl, hpc, s.sameBut_pc_setPc _, ?_⟩
  rintro rfl
  exact coreStep_faults_at_memory_end (by rw [hpc]; decide) (by rw [hpc]; decide)

/-- Settles O16: both are `skipIf` of the comparison, and a skip taken at 0xFFC lands on 0x1000. -/
theorem constantSkips : Obligations.ConstantSkips := by
  intro s x kk
  constructor
  · exact ⟨_, rfl, State.skipIf_pc_of_iff beq_iff_eq, s.sameBut_pc_skipIf _,
      fun hpc heq => coreStep_faults_after_skip hpc (beq_iff_eq.mpr heq)⟩
  · exact ⟨_, rfl, State.skipIf_pc_of_iff bne_iff_ne, s.sameBut_pc_skipIf _,
      fun hpc hne => coreStep_faults_after_skip hpc (bne_iff_ne.mpr hne)⟩

/-- Settles O17: both are `skipIf` of the comparison. -/
theorem registerSkips : Obligations.RegisterSkips := by
  intro s x y
  constructor
  · exact ⟨_, rfl, State.skipIf_pc_of_iff beq_iff_eq, s.sameBut_pc_skipIf _⟩
  · exact ⟨_, rfl, State.skipIf_pc_of_iff bne_iff_ne, s.sameBut_pc_skipIf _⟩
end

section
/-! SUPPORT. An instruction that writes one register and advances: what it leaves unchanged, and the register it
writes (spec/41_const_and_logic.md R166). -/

namespace Sys2Proof.Machine

/-- Writing general registers and `pc` leaves every other part as it is. -/
theorem State.sameBut_regs_pc (s : State) (v : Vector Byte 16) (a : Word) :
    SameBut [.regs, .pc] s { s with v := v, pc := a } := by
  intro p hp
  cases p with
  | regs | pc => exact absurd (by decide) hp
  | stack => exact ⟨rfl, fun _ => rfl⟩
  | timers | latches => exact ⟨rfl, rfl⟩
  | screen => exact fun _ _ => rfl
  | memory | keys => exact fun _ => rfl
  | _ => exact rfl

/-- R166: `V[x]` is the only register written, VF being an ordinary one, and `pc` advances by 2. -/
theorem State.putV_next (s : State) (x : Nibble) (b : Byte) : ∃ t, s.putV x b = .next t ∧
    t.getV x = b ∧ SameRegsBut x s t ∧ t.pc = s.pc + 2 ∧ SameBut [.regs, .pc] s t :=
  ⟨_, rfl, s.getV_setV_same x b, fun _ hr => s.getV_setV_ne x b hr, rfl, s.sameBut_regs_pc _ _⟩

end Sys2Proof.Machine
end

section
/-! The statements of spec/41_const_and_logic.md. -/

open Sys2Proof Sys2Proof.Machine

/-- Settles O18: both are `putV`, of `kk` and of the wrapped sum. -/
theorem constantLoadAndAdd : Obligations.ConstantLoadAndAdd := by
  intro s x kk
  constructor
  · exact s.putV_next x kk
  · obtain ⟨t, ht, hx, hframe⟩ := s.putV_next x (s.getV x + kk)
    exact ⟨t, ht, by rw [hx, BitVec.toNat_add], hframe⟩

/-- Settles O19: each is `putV` of a byte that has, bit by bit, the named function of the old bits. -/
theorem assignAndBitwiseOps : Obligations.AssignAndBitwiseOps := by
  intro s x y i f hi
  have hbits : ∃ b : Byte, exec i s = s.putV x b ∧
      ∀ k, b.getLsbD k = f ((s.getV x).getLsbD k) ((s.getV y).getLsbD k) := by
    rcases hi with ⟨rfl, rfl⟩ | ⟨rfl, rfl⟩ | ⟨rfl, rfl⟩ | ⟨rfl, rfl⟩
    · exact ⟨s.getV y, rfl, fun _ => rfl⟩
    · exact ⟨s.getV x ||| s.getV y, rfl, fun _ => BitVec.getLsbD_or⟩
    · exact ⟨s.getV x &&& s.getV y, rfl, fun _ => BitVec.getLsbD_and⟩
    · exact ⟨s.getV x ^^^ s.getV y, rfl, fun _ => BitVec.getLsbD_xor⟩
  obtain ⟨b, hexec, hb⟩ := hbits
  obtain ⟨t, ht, hx, hframe⟩ := s.putV_next x b
  exact ⟨t, hexec.trans ht, fun k _ => hx ▸ hb k, hframe⟩
end

section
/-! SUPPORT. An instruction that writes VF as a flag, then one register, and advances (spec/42_arith_flags_shifts.md
R170); the values it writes there, as numbers (R171 to R176). -/

namespace Sys2Proof.Machine

/-! ## The two writes and their frame -/

/-- R170: where `x` is VF, the result is what VF holds; else VF holds the flag. -/
theorem State.setFlagThenV_next (s : State) (f : Bool) (x : Nibble) (b : Byte) :
    ∃ t, (.next (s.setFlagThenV f x b).advance : Result) = .next t ∧
      t.getV x = b ∧ (x ≠ vf → t.getV vf = if f then 1 else 0) ∧
      SameRegsButFlagAnd x s t ∧ t.pc = s.pc + 2 ∧ SameBut [.regs, .pc] s t := by
  refine ⟨_, rfl, ?_, fun hx => ?_, fun r hrx hrf => ?_, rfl, s.sameBut_regs_pc _ _⟩
  · rw [State.getV_advance, State.getV_setFlagThenV, if_pos rfl]
  · rw [State.getV_advance, State.getV_setFlagThenV, if_neg hx.symm, if_pos rfl]
  · rw [State.getV_advance, State.getV_setFlagThenV, if_neg hrx, if_neg hrf]

/-! ## Flags as bytes -/

theorem toNat_flag (f : Bool) : (if f then 1 else 0 : Byte).toNat = f.toNat := by
  cases f <;> rfl

theorem carryOut_flag (a b : Byte) :
    (if carryOut a b then 1 else 0 : Byte) = if 256 ≤ a.toNat + b.toNat then 1 else 0 := by
  simp only [carryOut_eq, decide_eq_true_eq]

/-- NOT borrow, equality giving 1. -/
theorem notBorrow_flag (a b : Byte) :
    (if notBorrow a b then 1 else 0 : Byte) = if a.toNat < b.toNat then 0 else 1 := by
  simp only [notBorrow_eq, decide_eq_true_eq, ← Nat.not_lt, ite_not]

theorem toNat_shiftedOutRight (v : Byte) : (shiftedOutRight v).toNat = v.toNat % 2 := by
  rw [shiftedOutRight, BitVec.getLsbD, Nat.toNat_testBit, Nat.pow_zero, Nat.div_one]

theorem toNat_shiftedOutLeft (v : Byte) : (shiftedOutLeft v).toNat = v.toNat / 128 := by
  have hv : v.toNat / 128 < 2 := by have := v.isLt; omega
  rw [shiftedOutLeft, BitVec.getLsbD, Nat.toNat_testBit]
  exact Nat.mod_eq_of_lt hv

/-! ## Results as numbers -/

theorem toNat_byteSub (a b : Byte) : (a - b).toNat = (a.toNat + 256 - b.toNat) % 256 := by
  have hb := b.isLt
  rw [BitVec.toNat_sub]
  omega

theorem toNat_shiftRight_one (v : Byte) : (v >>> 1).toNat = v.toNat / 2 := by
  rw [BitVec.toNat_ushiftRight, Nat.shiftRight_eq_div_pow, Nat.pow_one]

theorem toNat_shiftLeft_one (v : Byte) : (v <<< 1).toNat = v.toNat * 2 % 256 := by
  rw [BitVec.toNat_shiftLeft, Nat.shiftLeft_eq, Nat.pow_one]

end Sys2Proof.Machine
end

section
/-! The statements of spec/42_arith_flags_shifts.md. -/

open Sys2Proof Sys2Proof.Machine

/-- Settles O20: the two writes of R170, of the carry and of the wrapped sum. -/
theorem addSetsCarry : Obligations.AddSetsCarry := by
  intro s x y
  obtain ⟨t, ht, hx, hflag, hframe⟩ :=
    s.setFlagThenV_next (carryOut (s.getV x) (s.getV y)) x (s.getV x + s.getV y)
  exact ⟨t, ht, by rw [hx, BitVec.toNat_add], fun hvf => by rw [hflag hvf, carryOut_flag], hframe⟩

/-- Settles O21: the two writes of R170, of NOT borrow and of the wrapped difference, for `SUBN` with the operands
exchanged. -/
theorem subtractionsSetNotBorrow : Obligations.SubtractionsSetNotBorrow := by
  intro s x y
  constructor
  · obtain ⟨t, ht, hx, hflag, hframe⟩ :=
      s.setFlagThenV_next (notBorrow (s.getV x) (s.getV y)) x (s.getV x - s.getV y)
    exact ⟨t, ht, by rw [hx, toNat_byteSub], fun hvf => by rw [hflag hvf, notBorrow_flag], hframe⟩
  · obtain ⟨t, ht, hx, hflag, hframe⟩ :=
      s.setFlagThenV_next (notBorrow (s.getV y) (s.getV x)) x (s.getV y - s.getV x)
    exact ⟨t, ht, by rw [hx, toNat_byteSub], fun hvf => by rw [hflag hvf, notBorrow_flag], hframe⟩

/-- Settles O22: `v` is the operand `shiftSource`, and the two writes of R170 are the bit shifted out of it and the
shifted value. -/
theorem shiftsMoveBitToFlag : Obligations.ShiftsMoveBitToFlag := by
  intro s x y v hv
  obtain rfl : v = s.shiftSource x y := hv
  constructor
  · obtain ⟨t, ht, hx, hflag, hframe⟩ :=
      s.setFlagThenV_next (shiftedOutRight (s.shiftSource x y)) x (s.shiftSource x y >>> 1)
    exact ⟨t, ht, by rw [hx, toNat_shiftRight_one],
      fun hvf => by rw [hflag hvf, toNat_flag, toNat_shiftedOutRight], hframe⟩
  · obtain ⟨t, ht, hx, hflag, hframe⟩ :=
      s.setFlagThenV_next (shiftedOutLeft (s.shiftSource x y)) x (s.shiftSource x y <<< 1)
    exact ⟨t, ht, by rw [hx, toNat_shiftLeft_one],
      fun hvf => by rw [hflag hvf, toNat_flag, toNat_shiftedOutLeft], hframe⟩
end

section
/-! SUPPORT. An instruction that writes `I` and advances: what it leaves unchanged (spec/43_index_random.md R180). -/

namespace Sys2Proof.Machine

/-- Writing `I` and advancing leaves every other part as it is. -/
theorem State.sameBut_index_pc_setIdx_advance (s : State) (a : Word) :
    SameBut [.index, .pc] s (s.setIdx a).advance := by
  intro p hp
  cases p with
  | index | pc => exact absurd (by decide) hp
  | stack => exact ⟨rfl, fun _ => rfl⟩
  | timers | latches => exact ⟨rfl, rfl⟩
  | screen => exact fun _ _ => rfl
  | regs | memory | keys => exact fun _ => rfl
  | _ => exact rfl

end Sys2Proof.Machine
end

section
/-! The statements of spec/43_index_random.md. -/

open Sys2Proof Sys2Proof.Machine

/-- Settles O23: the next state is `(s.setIdx nnn).advance`, and a 12-bit address widened to 16 bits keeps its value,
below 0x1000. -/
theorem setIndexLoadsAddress : Obligations.SetIndexLoadsAddress := by
  intro s nnn
  have hidx : (s.setIdx (nnn.setWidth 16)).advance.idx.toNat = nnn.toNat :=
    BitVec.toNat_setWidth_of_le (by decide)
  have hbound : nnn.toNat ≤ 0xFFF := Nat.le_of_lt_succ nnn.isLt
  exact ⟨_, rfl, hidx, hidx.trans_le hbound, State.advance_pc _, s.sameBut_index_pc_setIdx_advance _⟩
end

section
/-! SUPPORT. An instruction that writes the screen, sets `DIRTY` and advances: what it leaves unchanged
(spec/44_display.md R191). -/

namespace Sys2Proof.Machine

/-- Writing the framebuffer, writing `DIRTY` and advancing leaves every other part as it is. -/
theorem State.sameBut_screen_dirty_pc_setFb_setDirty_advance (s : State) (fb : Framebuffer) (d : Bool) :
    SameBut [.screen, .dirty, .pc] s ((s.setFb fb).setDirty d).advance := by
  intro p hp
  cases p with
  | screen | dirty | pc => exact absurd (by decide) hp
  | stack => exact ⟨rfl, fun _ => rfl⟩
  | timers | latches => exact ⟨rfl, rfl⟩
  | regs | memory | keys => exact fun _ => rfl
  | _ => exact rfl

end Sys2Proof.Machine
end

section
/-! The statements of spec/44_display.md. -/

open Sys2Proof Sys2Proof.Machine

/-- Settles O26: the next state is `((s.setFb blankScreen).setDirty true).advance`, and every pixel of the blank screen
is 0. -/
theorem clearScreenBlanksAndMarksDirty : Obligations.ClearScreenBlanksAndMarksDirty := by
  intro s
  exact ⟨_, rfl, pixel_blankScreen, rfl, State.advance_pc _,
    s.sameBut_screen_dirty_pc_setFb_setDirty_advance blankScreen true⟩
end

section
/-! SUPPORT. An instruction that sets a timer and advances: what it leaves unchanged (spec/45_keypad_timers.md R206,
R207); the output `SOUND` as a fact about the number in `ST` (spec/10_state.md R41). -/

namespace Sys2Proof.Machine

/-- Writing the timers and `pc` leaves every other part as it is. -/
theorem State.sameBut_timers_pc (s : State) (d b : Byte) (a : Word) :
    SameBut [.timers, .pc] s { s with dt := d, st := b, pc := a } := by
  intro p hp
  cases p with
  | timers | pc => exact absurd (by decide) hp
  | stack => exact ⟨rfl, fun _ => rfl⟩
  | latches => exact ⟨rfl, rfl⟩
  | screen => exact fun _ _ => rfl
  | regs | memory | keys => exact fun _ => rfl
  | _ => exact rfl

theorem State.sound_iff (s : State) : s.sound = true ↔ s.st.toNat ≠ 0 :=
  bne_iff_ne.trans BitVec.toNat_ne_iff_ne.symm

end Sys2Proof.Machine
end

section
/-! The statements of spec/45_keypad_timers.md. -/

open Sys2Proof Sys2Proof.Machine

/-- Settles O32: `LD Vx,DT` is `putV` of `DT`; the other two are `setDt` and `setSt` of `V[x]`, and `SOUND` reads the
new `ST`. -/
theorem timerAccess : Obligations.TimerAccess := by
  intro s x
  refine ⟨?getDelay, ?setDelay, ?setSound⟩
  case getDelay => exact s.putV_next x s.dt
  case setDelay => exact ⟨_, rfl, rfl, rfl, State.advance_pc _, s.sameBut_timers_pc (s.getV x) s.st _⟩
  case setSound =>
    exact ⟨_, rfl, rfl, rfl, State.sound_iff _, State.advance_pc _, s.sameBut_timers_pc s.dt (s.getV x) _⟩
end

section
/-! SUPPORT. No event looks at what comes after it (spec/60_exceptions.md R257): the agenda and the supply are used up
by a step and read by nothing else (log 2). -/

namespace Sys2Proof.Machine

open Config (Event)

variable {s t : State}

/-! ## The event a step is (spec/00_scope.md R7) -/

theorem step_of_due_none (h : s.due = none) : step s = runCore s := by
  rw [step, nextEvent, h]

theorem step_of_due_some {e : Event} (h : s.due = some e) : step s = deliver e s.consume := by
  rw [step, nextEvent, h]

/-! ## The effect under another agenda and supply -/

section

variable (a : List Event) (o : Option Nat)

/-- Replacing what comes next is no effect on the machine. -/
theorem State.sameBut_agenda_supply_setNext (s : State) :
    SameBut [.agenda, .supply] s ((s.setAgenda a).setSupply o) := by
  intro p hp
  cases p with
  | agenda | supply => exact absurd (by decide) hp
  | stack => exact ⟨rfl, fun _ => rfl⟩
  | timers | latches => exact ⟨rfl, rfl⟩
  | screen => exact fun _ _ => rfl
  | regs | memory | keys => exact fun _ => rfl
  | _ => exact rfl

theorem runCore_setNext (h : runCore s = .next t) :
    runCore ((s.setAgenda a).setSupply o) = .next ((t.setAgenda a).setSupply o) := by
  unfold runCore at h ⊢
  split at h <;> rename_i hhalt
  · cases h
  · exact (if_neg hhalt).trans (coreStep_setNext a o h)

theorem deliver_setNext {e : Event} (h : deliver e s = .next t) :
    deliver e ((s.setAgenda a).setSupply o) = .next ((t.setAgenda a).setSupply o) := by
  cases e with
  | step =>
    simp only [deliver] at h ⊢
    split at h <;> rename_i hhalt
    · cases h
      exact if_pos hhalt
    · exact (if_neg hhalt).trans (coreStep_setNext a o h)
  | loadImage bytes =>
    simp only [deliver] at h ⊢
    split at h <;> rename_i hlen <;> cases h
    exact (if_pos hlen).trans
      (congrArg Host.Outcome.next ((resetEvent s).writeBytes_setNext a o Config.progBase bytes))
  | tick | keyEvent | presentAck | reset => cases h; rfl

/-- States that differ only in what comes next still do so after each has used up an event. -/
theorem State.consume_setNext (s : State) :
    ∃ a' o', ((s.setAgenda a).setSupply o).consume = (s.consume.setAgenda a').setSupply o' := by
  obtain ⟨a', o', hu⟩ := ((s.setAgenda a).setSupply o).consume_eq
  obtain ⟨b, p, hs⟩ := s.consume_eq
  exact ⟨a', o', by rw [hu, hs]; rfl⟩

/-- Where the same event is due, a step has the same effect whatever comes after it. -/
theorem step_setNext (hdue : ((s.setAgenda a).setSupply o).due = s.due) (h : step s = .next t) :
    ∃ a' o', step ((s.setAgenda a).setSupply o) = .next ((t.setAgenda a').setSupply o') := by
  cases hs : s.due with
  | none =>
    rw [step_of_due_none hs] at h
    exact ⟨a, o, (step_of_due_none (hdue.trans hs)).trans (runCore_setNext a o h)⟩
  | some e =>
    rw [step_of_due_some hs] at h
    obtain ⟨a', o', hconsume⟩ := s.consume_setNext a o
    rw [step_of_due_some (hdue.trans hs), hconsume]
    exact ⟨a', o', deliver_setNext a' o' h⟩

end

end Sys2Proof.Machine
end

section
/-! SUPPORT. The control flow instructions that can fault, one equation for each outcome (spec/40_control_flow.md R141;
spec/60_exceptions.md R243, R244). -/

namespace Sys2Proof.Machine

variable {s : State} {nnn : Addr12}

/-! ## `SYS`, by its policy (R141) -/

/-- The word of `SYS nnn` is the number `nnn`. -/
theorem encodeNnn_zero_eq_ofNat (nnn : Addr12) : encodeNnn 0x0 nnn = BitVec.ofNat 16 nnn.toNat := by
  rw [encodeNnn, BitVec.ofNat_toNat]
  exact (BitVec.setWidth_eq_append (by decide)).symm

theorem exec_sys_of_fault (h : s.params.sysPolicy = .fault) :
    exec (.sys nnn) s = .next (s.raise (.unsupportedInstruction (encodeNnn 0x0 nnn))) := by
  rw [exec, execSys, h]
  rfl

theorem exec_sys_of_call (h : s.params.sysPolicy = .call) : exec (.sys nnn) s = exec (.call nnn) s := by
  rw [exec, execSys, h]
  rfl

theorem exec_sys_of_nop (h : s.params.sysPolicy = .nop) : exec (.sys nnn) s = .next s.advance := by
  rw [exec, execSys, h]

/-! ## The ends of the call stack (R243, R244) -/

theorem exec_call_of_full (h : s.sp.val = 16) : exec (.call nnn) s = .next (s.raise .stackOverflow) := by
  rcases s.callTo_cases nnn with ⟨hlt, _⟩ | ⟨_, hcall⟩
  · omega
  · exact hcall

theorem exec_ret_of_empty (h : s.sp.val = 0) : exec .ret s = .next (s.raise .stackUnderflow) :=
  dif_neg h.not_gt

end Sys2Proof.Machine
end

section
/-! The statements of spec/60_exceptions.md. -/

open Sys2Proof Sys2Proof.Machine

/-- Settles O60: by `step_setNext` the next state of `u` is `t` with another agenda and supply. -/
theorem effectIgnoresWhatComesLater : Obligations.EffectIgnoresWhatComesLater := by
  rintro s t u a o rfl hdue hstep
  obtain ⟨a', o', hstep'⟩ := step_setNext a o hdue hstep
  exact ⟨_, hstep', t.sameBut_agenda_supply_setNext a' o'⟩

/-- Settles O8: one equation of `exec` for each policy. -/
theorem sysFollowsPolicy : Obligations.SysFollowsPolicy := by
  intro s nnn
  refine ⟨fun hfault => ?_, exec_sys_of_call, fun hnop => ?_⟩
  · exact ⟨_, exec_sys_of_fault hfault, encodeNnn_zero_eq_ofNat nnn ▸ s.faulted_raise _⟩
  · exact ⟨_, exec_sys_of_nop hnop, s.advance_pc, s.sameBut_pc_setPc _⟩

/-- Settles O11: at `SP = 16` the `CALL` is the fault entry. -/
theorem callOnFullStackFaults : Obligations.CallOnFullStackFaults :=
  fun s _ hfull => ⟨_, exec_call_of_full hfull, s.faulted_raise _⟩

/-- Settles O13: at `SP = 0` the `RET` is the fault entry. -/
theorem returnOnEmptyStackFaults : Obligations.ReturnOnEmptyStackFaults :=
  fun s hempty => ⟨_, exec_ret_of_empty hempty, s.faulted_raise _⟩
end

section
/-! SUPPORT. The decoder and the encoder undo each other, family by family (spec/30_encoding.md R97, R98, R101,
R104). -/

namespace Sys2Proof

variable {w : Word} {i : Instr} {d d' : Decoded} {c : Prop} [Decidable c]

/-! ## A word put together again from its opcode and its operands (R105) -/

theorem encodeNnn_of_op {k : Nibble} (hop : fieldOp w = k) : encodeNnn k (fieldNnn w) = w := by
  rw [← hop, encodeNnn_fields]

theorem encodeXkk_of_op {k : Nibble} (hop : fieldOp w = k) : encodeXkk k (fieldX w) (fieldKk w) = w := by
  rw [← hop, encodeXkk_fields]

theorem encodeXkk_of_op_kk {k : Nibble} {b : Byte} (hop : fieldOp w = k) (hkk : fieldKk w = b) :
    encodeXkk k (fieldX w) b = w := by
  rw [← hkk, encodeXkk_of_op hop]

theorem encodeXyn_of_op {k : Nibble} (hop : fieldOp w = k) :
    encodeXyn k (fieldX w) (fieldY w) (fieldN w) = w := by
  rw [← hop, encodeXyn_fields]

theorem encodeXyn_of_op_n {k l : Nibble} (hop : fieldOp w = k) (hn : fieldN w = l) :
    encodeXyn k (fieldX w) (fieldY w) l = w := by
  rw [← hn, encodeXyn_of_op hop]

/-! ## What a legal word decodes to, along the branches of the decoder (R104) -/

/-- If `d` is an instruction, it is well-formed and its word is `w`. -/
def EncodesBack (w : Word) (d : Decoded) : Prop := ∀ i, d = .ok i → encode i = w ∧ i.wellFormed = true

theorem EncodesBack.ok (h : encode i = w) (hwf : i.wellFormed = true) : EncodesBack w (.ok i) := by
  rintro _ ⟨⟩
  exact ⟨h, hwf⟩

theorem EncodesBack.error {e : DecodeError} : EncodesBack w (.error e) := nofun

theorem EncodesBack.ite (h : c → EncodesBack w d) (h' : ¬c → EncodesBack w d') :
    EncodesBack w (if c then d else d') := by
  split
  · exact h ‹_›
  · exact h' ‹_›

/-- `SYS` is well-formed because the two literals come before it (R98). -/
theorem encodesBack_decodeFamily0 (hop : fieldOp w = 0x0) : EncodesBack w (decodeFamily0 w) := by
  refine .ite (fun h => .ok h.symm rfl) fun hcls => .ite (fun h => .ok h.symm rfl) fun hret => ?_
  have hw : encodeNnn 0x0 (fieldNnn w) = w := encodeNnn_of_op hop
  have hne0 : fieldNnn w ≠ 0x0E0 := fun h => hcls (by rw [← hw, h]; rfl)
  have hneE : fieldNnn w ≠ 0x0EE := fun h => hret (by rw [← hw, h]; rfl)
  exact .ok hw (Bool.and_eq_true_iff.mpr ⟨bne_iff_ne.mpr hne0, bne_iff_ne.mpr hneE⟩)

theorem encodesBack_decodeLowNibbleZero (h : fieldN w = 0 → encode i = w) (hwf : i.wellFormed = true) :
    EncodesBack w (decodeLowNibbleZero w i) :=
  .ite (fun hn => .ok (h hn) hwf) fun _ => .error

theorem encodesBack_decodeFamily8 (hop : fieldOp w = 0x8) : EncodesBack w (decodeFamily8 w) :=
  .ite (fun hn => .ok (encodeXyn_of_op_n hop hn) rfl) fun _ =>
  .ite (fun hn => .ok (encodeXyn_of_op_n hop hn) rfl) fun _ =>
  .ite (fun hn => .ok (encodeXyn_of_op_n hop hn) rfl) fun _ =>
  .ite (fun hn => .ok (encodeXyn_of_op_n hop hn) rfl) fun _ =>
  .ite (fun hn => .ok (encodeXyn_of_op_n hop hn) rfl) fun _ =>
  .ite (fun hn => .ok (encodeXyn_of_op_n hop hn) rfl) fun _ =>
  .ite (fun hn => .ok (encodeXyn_of_op_n hop hn) rfl) fun _ =>
  .ite (fun hn => .ok (encodeXyn_of_op_n hop hn) rfl) fun _ =>
  .ite (fun hn => .ok (encodeXyn_of_op_n hop hn) rfl) fun _ => .error

theorem encodesBack_decodeFamilyE (hop : fieldOp w = 0xE) : EncodesBack w (decodeFamilyE w) :=
  .ite (fun hkk => .ok (encodeXkk_of_op_kk hop hkk) rfl) fun _ =>
  .ite (fun hkk => .ok (encodeXkk_of_op_kk hop hkk) rfl) fun _ => .error

theorem encodesBack_decodeFamilyF (hop : fieldOp w = 0xF) : EncodesBack w (decodeFamilyF w) :=
  .ite (fun hkk => .ok (encodeXkk_of_op_kk hop hkk) rfl) fun _ =>
  .ite (fun hkk => .ok (encodeXkk_of_op_kk hop hkk) rfl) fun _ =>
  .ite (fun hkk => .ok (encodeXkk_of_op_kk hop hkk) rfl) fun _ =>
  .ite (fun hkk => .ok (encodeXkk_of_op_kk hop hkk) rfl) fun _ =>
  .ite (fun hkk => .ok (encodeXkk_of_op_kk hop hkk) rfl) fun _ =>
  .ite (fun hkk => .ok (encodeXkk_of_op_kk hop hkk) rfl) fun _ =>
  .ite (fun hkk => .ok (encodeXkk_of_op_kk hop hkk) rfl) fun _ =>
  .ite (fun hkk => .ok (encodeXkk_of_op_kk hop hkk) rfl) fun _ =>
  .ite (fun hkk => .ok (encodeXkk_of_op_kk hop hkk) rfl) fun _ => .error

/-! ## The decoder by its top nibble (R101) -/

theorem nibble_cases (k : Nibble) : k = 0x0 ∨ k = 0x1 ∨ k = 0x2 ∨ k = 0x3 ∨ k = 0x4 ∨ k = 0x5 ∨ k = 0x6 ∨ k = 0x7 ∨
    k = 0x8 ∨ k = 0x9 ∨ k = 0xA ∨ k = 0xB ∨ k = 0xC ∨ k = 0xD ∨ k = 0xE ∨ k = 0xF := by
  revert k
  decide

theorem decode_of_op_0 (hop : fieldOp w = 0x0) : decode w = decodeFamily0 w := by
  simp [decode, hop]

theorem decode_of_op_1 (hop : fieldOp w = 0x1) : decode w = .ok (.jump (fieldNnn w)) := by
  simp [decode, hop]

theorem decode_of_op_2 (hop : fieldOp w = 0x2) : decode w = .ok (.call (fieldNnn w)) := by
  simp [decode, hop]

theorem decode_of_op_3 (hop : fieldOp w = 0x3) : decode w = .ok (.skipEqConst (fieldX w) (fieldKk w)) := by
  simp [decode, hop]

theorem decode_of_op_4 (hop : fieldOp w = 0x4) : decode w = .ok (.skipNeConst (fieldX w) (fieldKk w)) := by
  simp [decode, hop]

theorem decode_of_op_5 (hop : fieldOp w = 0x5) :
    decode w = decodeLowNibbleZero w (.skipEqReg (fieldX w) (fieldY w)) := by
  simp [decode, hop]

theorem decode_of_op_6 (hop : fieldOp w = 0x6) : decode w = .ok (.setConst (fieldX w) (fieldKk w)) := by
  simp [decode, hop]

theorem decode_of_op_7 (hop : fieldOp w = 0x7) : decode w = .ok (.addConst (fieldX w) (fieldKk w)) := by
  simp [decode, hop]

theorem decode_of_op_8 (hop : fieldOp w = 0x8) : decode w = decodeFamily8 w := by
  simp [decode, hop]

theorem decode_of_op_9 (hop : fieldOp w = 0x9) :
    decode w = decodeLowNibbleZero w (.skipNeReg (fieldX w) (fieldY w)) := by
  simp [decode, hop]

theorem decode_of_op_A (hop : fieldOp w = 0xA) : decode w = .ok (.setIndex (fieldNnn w)) := by
  simp [decode, hop]

theorem decode_of_op_B (hop : fieldOp w = 0xB) : decode w = .ok (.jumpOffset (fieldNnn w)) := by
  simp [decode, hop]

theorem decode_of_op_C (hop : fieldOp w = 0xC) : decode w = .ok (.random (fieldX w) (fieldKk w)) := by
  simp [decode, hop]

theorem decode_of_op_D (hop : fieldOp w = 0xD) : decode w = .ok (.draw (fieldX w) (fieldY w) (fieldN w)) := by
  simp [decode, hop]

theorem decode_of_op_E (hop : fieldOp w = 0xE) : decode w = decodeFamilyE w := by
  simp [decode, hop]

theorem decode_of_op_F (hop : fieldOp w = 0xF) : decode w = decodeFamilyF w := by
  simp [decode, hop]

/-! ## Both round trips (R104) -/

theorem decode_encode (h : i.wellFormed = true) : decode (encode i) = .ok i := by
  cases i with
  | clearScreen | ret => decide
  | sys nnn =>
    obtain ⟨hcls, hret⟩ := Bool.and_eq_true_iff.mp h
    have hfield : fieldNnn (encode (.sys nnn)) = nnn := fieldNnn_encodeNnn _ _
    have hop : fieldOp (encode (.sys nnn)) = 0x0 := fieldOp_encodeNnn _ _
    rw [decode_of_op_0 hop, decodeFamily0, hfield, if_neg, if_neg]
    · exact fun e => bne_iff_ne.mp hret (hfield.symm.trans (congrArg fieldNnn e))
    · exact fun e => bne_iff_ne.mp hcls (hfield.symm.trans (congrArg fieldNnn e))
  | skipEqReg | skipNeReg => simp [encode, decode, decodeLowNibbleZero]
  | assign | orReg | andReg | xorReg | addReg | subReg | shiftRight | subReverse | shiftLeft =>
    simp [encode, decode, decodeFamily8]
  | skipKeyPressed | skipKeyNotPressed => simp [encode, decode, decodeFamilyE]
  | getDelay | waitKey | setDelay | setSound | addIndex | fontAddr | storeBcd | dumpRegs | loadRegs =>
    simp [encode, decode, decodeFamilyF]
  | _ => simp [encode, decode]

theorem encodesBack_decode : EncodesBack w (decode w) := by
  rcases nibble_cases (fieldOp w) with h | h | h | h | h | h | h | h | h | h | h | h | h | h | h | h
  · exact decode_of_op_0 h ▸ encodesBack_decodeFamily0 h
  · exact decode_of_op_1 h ▸ .ok (encodeNnn_of_op h) rfl
  · exact decode_of_op_2 h ▸ .ok (encodeNnn_of_op h) rfl
  · exact decode_of_op_3 h ▸ .ok (encodeXkk_of_op h) rfl
  · exact decode_of_op_4 h ▸ .ok (encodeXkk_of_op h) rfl
  · exact decode_of_op_5 h ▸ encodesBack_decodeLowNibbleZero (encodeXyn_of_op_n h) rfl
  · exact decode_of_op_6 h ▸ .ok (encodeXkk_of_op h) rfl
  · exact decode_of_op_7 h ▸ .ok (encodeXkk_of_op h) rfl
  · exact decode_of_op_8 h ▸ encodesBack_decodeFamily8 h
  · exact decode_of_op_9 h ▸ encodesBack_decodeLowNibbleZero (encodeXyn_of_op_n h) rfl
  · exact decode_of_op_A h ▸ .ok (encodeNnn_of_op h) rfl
  · exact decode_of_op_B h ▸ .ok (encodeNnn_of_op h) rfl
  · exact decode_of_op_C h ▸ .ok (encodeXkk_of_op h) rfl
  · exact decode_of_op_D h ▸ .ok (encodeXyn_of_op h) rfl
  · exact decode_of_op_E h ▸ encodesBack_decodeFamilyE h
  · exact decode_of_op_F h ▸ encodesBack_decodeFamilyF h

/-! ## The ordered match over the map (R98, R100) -/

/-- The ordered match over any list of rows. -/
def firstRow (w : Word) : List OpcodeRow → Decoded
  | [] => .error (.unsupportedInstruction w)
  | r :: rs => if r.selects w then .ok (r.build w) else firstRow w rs

theorem decodeByMap_eq_firstRow : decodeByMap w = firstRow w opcodeMap := by
  unfold decodeByMap
  induction opcodeMap with
  | nil => rfl
  | cons r rs ih =>
    rw [List.find?_cons, firstRow]
    cases r.selects w
    · exact ih
    · rfl

/-- Every row tests the top nibble. -/
theorem opcodeMap_mask_op : ∀ r ∈ opcodeMap, fieldOp r.mask = 0xF := by decide

theorem OpcodeRow.fieldOp_of_selects {r : OpcodeRow} (hm : fieldOp r.mask = 0xF) (hs : r.selects w = true) :
    fieldOp r.pattern = fieldOp w := by
  have hand : fieldOp (w &&& r.mask) = fieldOp w &&& fieldOp r.mask := BitVec.extractLsb'_and
  rw [← beq_iff_eq.mp hs, hand, hm]
  exact BitVec.and_allOnes

theorem firstRow_filter_op {k : Nibble} (hop : fieldOp w = k) {rs : List OpcodeRow}
    (hm : ∀ r ∈ rs, fieldOp r.mask = 0xF) :
    firstRow w rs = firstRow w (rs.filter (fun r => fieldOp r.pattern == k)) := by
  induction rs with
  | nil => rfl
  | cons r rs ih =>
    have ih := ih (fun x hx => hm x (List.mem_cons_of_mem r hx))
    rw [firstRow, List.filter_cons]
    split
    · have hr := OpcodeRow.fieldOp_of_selects (hm r List.mem_cons_self) ‹_›
      rw [if_pos (beq_iff_eq.mpr (hr.trans hop)), firstRow, if_pos ‹_›]
    · split
      · rw [firstRow, if_neg ‹_›, ih]
      · exact ih

/-- The rows of one family. -/
def familyRows (k : Nibble) : List OpcodeRow := opcodeMap.filter (fun r => fieldOp r.pattern == k)

/-- Only the rows of its family can match a word. -/
theorem decodeByMap_of_op {k : Nibble} (hop : fieldOp w = k) : decodeByMap w = firstRow w (familyRows k) :=
  decodeByMap_eq_firstRow.trans (firstRow_filter_op hop opcodeMap_mask_op)

/-! ## The rows of each family decide as its second level does (R97, R101) -/

section

variable {k : Nibble} {p : Word} {f : Word → Instr}

theorem selects_word_iff : (⟨0xFFFF, p, f⟩ : OpcodeRow).selects w = true ↔ w = p := by
  rw [OpcodeRow.selects, beq_iff_eq, show (0xFFFF : Word) = BitVec.allOnes 16 from rfl, BitVec.and_allOnes]

theorem selects_of_op (hop : fieldOp w = k) (hp : encodeNnn k 0 = p) :
    (⟨0xF000, p, f⟩ : OpcodeRow).selects w = true := by
  rw [OpcodeRow.selects, beq_iff_eq, ← hp, mask_op, hop]

theorem selects_n_iff {l : Nibble} (hop : fieldOp w = k) (hp : encodeXyn k 0 0 l = p) :
    (⟨0xF00F, p, f⟩ : OpcodeRow).selects w = true ↔ fieldN w = l := by
  rw [OpcodeRow.selects, beq_iff_eq, ← hp, mask_op_n, and_iff_right hop]

theorem selects_kk_iff {b : Byte} (hop : fieldOp w = k) (hp : encodeXkk k 0 b = p) :
    (⟨0xF0FF, p, f⟩ : OpcodeRow).selects w = true ↔ fieldKk w = b := by
  rw [OpcodeRow.selects, beq_iff_eq, ← hp, mask_op_kk, and_iff_right hop]

end

theorem firstRow_family0 (hop : fieldOp w = 0x0) : firstRow w (familyRows 0x0) = decodeFamily0 w :=
  if_congr selects_word_iff rfl <|
  if_congr selects_word_iff rfl <| if_pos (selects_of_op hop rfl)

theorem firstRow_family8 (hop : fieldOp w = 0x8) : firstRow w (familyRows 0x8) = decodeFamily8 w :=
  if_congr (selects_n_iff hop rfl) rfl <|
  if_congr (selects_n_iff hop rfl) rfl <|
  if_congr (selects_n_iff hop rfl) rfl <|
  if_congr (selects_n_iff hop rfl) rfl <|
  if_congr (selects_n_iff hop rfl) rfl <|
  if_congr (selects_n_iff hop rfl) rfl <|
  if_congr (selects_n_iff hop rfl) rfl <|
  if_congr (selects_n_iff hop rfl) rfl <|
  if_congr (selects_n_iff hop rfl) rfl rfl

theorem firstRow_familyE (hop : fieldOp w = 0xE) : firstRow w (familyRows 0xE) = decodeFamilyE w :=
  if_congr (selects_kk_iff hop rfl) rfl <|
  if_congr (selects_kk_iff hop rfl) rfl rfl

theorem firstRow_familyF (hop : fieldOp w = 0xF) : firstRow w (familyRows 0xF) = decodeFamilyF w :=
  if_congr (selects_kk_iff hop rfl) rfl <|
  if_congr (selects_kk_iff hop rfl) rfl <|
  if_congr (selects_kk_iff hop rfl) rfl <|
  if_congr (selects_kk_iff hop rfl) rfl <|
  if_congr (selects_kk_iff hop rfl) rfl <|
  if_congr (selects_kk_iff hop rfl) rfl <|
  if_congr (selects_kk_iff hop rfl) rfl <|
  if_congr (selects_kk_iff hop rfl) rfl <|
  if_congr (selects_kk_iff hop rfl) rfl rfl

/-- One case for each top nibble, in the order of R101. -/
theorem decode_eq_decodeByMap (w : Word) : decode w = decodeByMap w := by
  rcases nibble_cases (fieldOp w) with h | h | h | h | h | h | h | h | h | h | h | h | h | h | h | h <;>
    rw [decodeByMap_of_op h]
  · exact (decode_of_op_0 h).trans (firstRow_family0 h).symm
  · exact (decode_of_op_1 h).trans (if_pos (selects_of_op h rfl)).symm
  · exact (decode_of_op_2 h).trans (if_pos (selects_of_op h rfl)).symm
  · exact (decode_of_op_3 h).trans (if_pos (selects_of_op h rfl)).symm
  · exact (decode_of_op_4 h).trans (if_pos (selects_of_op h rfl)).symm
  · exact (decode_of_op_5 h).trans (if_congr (selects_n_iff h rfl) rfl rfl).symm
  · exact (decode_of_op_6 h).trans (if_pos (selects_of_op h rfl)).symm
  · exact (decode_of_op_7 h).trans (if_pos (selects_of_op h rfl)).symm
  · exact (decode_of_op_8 h).trans (firstRow_family8 h).symm
  · exact (decode_of_op_9 h).trans (if_congr (selects_n_iff h rfl) rfl rfl).symm
  · exact (decode_of_op_A h).trans (if_pos (selects_of_op h rfl)).symm
  · exact (decode_of_op_B h).trans (if_pos (selects_of_op h rfl)).symm
  · exact (decode_of_op_C h).trans (if_pos (selects_of_op h rfl)).symm
  · exact (decode_of_op_D h).trans (if_pos (selects_of_op h rfl)).symm
  · exact (decode_of_op_E h).trans (firstRow_familyE h).symm
  · exact (decode_of_op_F h).trans (firstRow_familyF h).symm

/-! ## Rows that can select one word (R100) -/

/-- Two rows that select one word agree where both look at it. -/
theorem OpcodeRow.compatible_of_selects {r q : OpcodeRow} (hr : r.selects w = true) (hq : q.selects w = true) :
    r.pattern &&& q.mask = q.pattern &&& r.mask := by
  rw [← beq_iff_eq.mp hr, ← beq_iff_eq.mp hq, BitVec.and_assoc, BitVec.and_assoc, BitVec.and_comm r.mask]

/-- Two rows of the map agree where both look only if the earlier is a literal of family 0 and the later is `SYS`. -/
theorem opcodeMap_compatible : ∀ j k : Fin 35, j < k →
    opcodeMap[j].pattern &&& opcodeMap[k].mask = opcodeMap[k].pattern &&& opcodeMap[j].mask →
    j.val < 2 ∧ k.val = 2 := by
  decide

/-- `SYS` selects the words of `CLS` and `RET`. -/
theorem opcodeMap_literals_selected : ∀ j : Fin 2,
    opcodeMap[j.val].selects opcodeMap[j.val].pattern = true ∧
    opcodeMap[2].selects opcodeMap[j.val].pattern = true := by
  decide

/-! ## The illegal words (R102) -/

theorem decodeLowNibbleZero_error_iff :
    decodeLowNibbleZero w i = .error (.unsupportedInstruction w) ↔ fieldN w ≠ 0 := by
  simp [decodeLowNibbleZero]

theorem decodeFamily0_ne_error {e : DecodeError} : decodeFamily0 w ≠ .error e := by
  simp [decodeFamily0, ite_eq_iff]

/-- The low nibbles family 8 leaves out. -/
theorem decodeFamily8_error_iff : decodeFamily8 w = .error (.unsupportedInstruction w) ↔
    fieldN w ∈ [0x8#4, 0x9#4, 0xA#4, 0xB#4, 0xC#4, 0xD#4, 0xF#4] := by
  have hlegal : ∀ n : Nibble, n ∈ [0x8#4, 0x9#4, 0xA#4, 0xB#4, 0xC#4, 0xD#4, 0xF#4] ↔
      n ∉ [0x0#4, 0x1#4, 0x2#4, 0x3#4, 0x4#4, 0x5#4, 0x6#4, 0x7#4, 0xE#4] := by decide
  rw [hlegal]
  simp [decodeFamily8, ite_eq_iff]

theorem decodeFamilyE_error_iff : decodeFamilyE w = .error (.unsupportedInstruction w) ↔
    fieldKk w ∉ [0x9E#8, 0xA1#8] := by
  simp [decodeFamilyE, ite_eq_iff]

theorem decodeFamilyF_error_iff : decodeFamilyF w = .error (.unsupportedInstruction w) ↔
    fieldKk w ∉ [0x07#8, 0x0A#8, 0x15#8, 0x18#8, 0x1E#8, 0x29#8, 0x33#8, 0x55#8, 0x65#8] := by
  simp [decodeFamilyF, ite_eq_iff]

end Sys2Proof
end

section
/-! SUPPORT. The lines of the assembler (spec/30_encoding.md R107, R108). -/

namespace Sys2Proof.Machine

/-- Both ways a shift's line writes `Vy`: `y = 0` is left out, any other `y` stands in the line. -/
theorem assembleShift_shiftOperands (f : Nibble → Nibble → Instr) (x y : Nibble) :
    assembleShift f (shiftOperands x y) = some (f x y) := by
  unfold shiftOperands
  split
  · next hy => rw [hy]; rfl
  · rfl

theorem assemble_asmOf (i : Instr) : assemble (asmOf i) = some i := by
  cases i with
  | shiftRight x y | shiftLeft x y => exact assembleShift_shiftOperands _ x y
  | _ => rfl

end Sys2Proof.Machine
end

section
/-! The statements of spec/30_encoding.md. -/

open Sys2Proof Sys2Proof.Machine

/-- Settles O1: `decode_encode`, one case for each family. -/
theorem decodeInvertsEncode : Obligations.DecodeInvertsEncode :=
  fun _ => decode_encode

/-- Settles O2: every branch of the decoder that answers an instruction has tested the bits that are no operand
of it. -/
theorem encodeInvertsDecode : Obligations.EncodeInvertsDecode :=
  fun _ => encodesBack_decode

/-- Settles O3: in each family the decoder's second level is the ordered match over the rows of that family. -/
theorem decodeFollowsOpcodeMap : Obligations.DecodeFollowsOpcodeMap :=
  decode_eq_decodeByMap

/-- Settles O4: rows that select one word agree where both look at it, which the table of the rows shows only for the
literals and `SYS`; there the literal is such a word. -/
theorem onlyFamilyZeroRowsOverlap : Obligations.OnlyFamilyZeroRowsOverlap := by
  refine ⟨rfl, fun j k hj hk hjk => ⟨?_, ?_⟩⟩
  · rintro ⟨w, hsj, hsk⟩
    exact opcodeMap_compatible ⟨j, hj⟩ ⟨k, hk⟩ hjk (OpcodeRow.compatible_of_selects hsj hsk)
  · rintro ⟨hlit, rfl⟩
    exact ⟨_, opcodeMap_literals_selected ⟨j, hlit⟩⟩

/-- Settles O5: the families that refuse a word, each by its second level. -/
theorem illegalWordsAreExactly : Obligations.IllegalWordsAreExactly := by
  refine ⟨fun w raw => decode_error_raw, fun w => ?_⟩
  rcases nibble_cases (fieldOp w) with h | h | h | h | h | h | h | h | h | h | h | h | h | h | h | h
  · simp [decode_of_op_0 h, h, decodeFamily0_ne_error]
  · simp [decode_of_op_1 h, h]
  · simp [decode_of_op_2 h, h]
  · simp [decode_of_op_3 h, h]
  · simp [decode_of_op_4 h, h]
  · simp [decode_of_op_5 h, h, decodeLowNibbleZero_error_iff]
  · simp [decode_of_op_6 h, h]
  · simp [decode_of_op_7 h, h]
  · simp [decode_of_op_8 h, h, decodeFamily8_error_iff]
  · simp [decode_of_op_9 h, h, decodeLowNibbleZero_error_iff]
  · simp [decode_of_op_A h, h]
  · simp [decode_of_op_B h, h]
  · simp [decode_of_op_C h, h]
  · simp [decode_of_op_D h, h]
  · simp [decode_of_op_E h, h, decodeFamilyE_error_iff]
  · simp [decode_of_op_F h, h, decodeFamilyF_error_iff]

/-- Settles O6: the decoder run on each word. -/
theorem specWordsDecode : Obligations.SpecWordsDecode := by
  unfold Obligations.SpecWordsDecode
  decide

/-- Settles O7: `assemble_asmOf`, where only the shifts have more than one form of line. -/
theorem assembleInvertsAsmOf : Obligations.AssembleInvertsAsmOf :=
  ⟨assemble_asmOf, fun _ => ⟨rfl, rfl⟩⟩
end

section
/-! SUPPORT. Frames put together: each update of Machine/Ops.lean writes one part of the state, and the frames of updates
made one after the other add up (spec/10_state.md R34). -/

namespace Sys2Proof.Machine

variable {s t u : State} {ps qs : List Part}

/-! ## Sequences of updates -/

theorem Same.refl (p : Part) (s : State) : Same p s s := by
  cases p <;> simp [Same]

theorem Same.trans {p : Part} (h : Same p s t) (h' : Same p t u) : Same p s u := by
  cases p <;> simp_all [Same]

theorem SameBut.refl (s : State) : SameBut ps s s := fun p _ => .refl p s

/-- What neither of two updates writes stays. -/
theorem SameBut.trans (h : SameBut ps s t) (h' : SameBut qs t u) : SameBut (ps ++ qs) s u := by
  intro p hp
  rw [List.mem_append, not_or] at hp
  exact (h p hp.1).trans (h' p hp.2)

/-- A frame may list more parts than are written. -/
theorem SameBut.mono (h : SameBut ps s t) (hsub : ∀ p ∈ ps, p ∈ qs) : SameBut qs s t :=
  fun p hp => h p (fun hmem => hp (hsub p hmem))

/-! ## The part each update writes -/

variable (s)

theorem State.sameBut_setV (x : Nibble) (b : Byte) : SameBut [.regs] s (s.setV x b) := by
  intro p hp
  cases p <;> simp [Same] at hp ⊢

theorem State.sameBut_loadFirst (a n : Nat) : SameBut [.regs] s (s.loadFirst a n) := by
  intro p hp
  cases p <;> simp [Same] at hp ⊢

theorem State.sameBut_setIdx (a : Word) : SameBut [.index] s (s.setIdx a) := by
  intro p hp
  cases p <;> simp [Same] at hp ⊢

theorem State.sameBut_setFb (fb : Framebuffer) : SameBut [.screen] s (s.setFb fb) := by
  intro p hp
  cases p <;> simp [Same] at hp ⊢

theorem State.sameBut_setDirty (d : Bool) : SameBut [.dirty] s (s.setDirty d) := by
  intro p hp
  cases p <;> simp [Same] at hp ⊢

theorem State.sameBut_setDt (b : Byte) : SameBut [.timers] s (s.setDt b) := by
  intro p hp
  cases p <;> simp [Same] at hp ⊢

theorem State.sameBut_setSt (b : Byte) : SameBut [.timers] s (s.setSt b) := by
  intro p hp
  cases p <;> simp [Same] at hp ⊢

theorem State.sameBut_setKey (k : Nibble) (d : Bool) : SameBut [.keys] s (s.setKey k d) := by
  intro p hp
  cases p <;> simp [Same] at hp ⊢

theorem State.sameBut_countDraw : SameBut [.draws] s s.countDraw := by
  intro p hp
  cases p <;> simp [Same] at hp ⊢

theorem State.sameBut_writeBytes (a : Nat) (bs : List Byte) : SameBut [.memory] s (s.writeBytes a bs) := by
  intro p hp
  cases p <;> simp [Same] at hp ⊢

theorem State.sameBut_push (a : Word) (h : s.sp.val < 16) : SameBut [.stack] s (s.push a h) := by
  intro p hp
  cases p <;> simp [Same] at hp ⊢

theorem State.sameBut_popSp : SameBut [.stack] s s.popSp := by
  intro p hp
  cases p <;> simp [Same] at hp ⊢

theorem State.sameBut_consume : SameBut [.agenda, .supply] s s.consume := by
  intro p hp
  cases p <;> simp [Same] at hp ⊢

theorem State.sameBut_advance : SameBut [.pc] s s.advance := s.sameBut_pc_setPc _

/-! ## Two updates and the advance -/

theorem State.sameBut_regs_pc_setV_advance (x : Nibble) (b : Byte) : SameBut [.regs, .pc] s (s.setV x b).advance :=
  (s.sameBut_setV x b).trans (State.sameBut_advance _)

theorem State.sameBut_memory_pc_writeBytes_advance (a : Nat) (bs : List Byte) :
    SameBut [.memory, .pc] s (s.writeBytes a bs).advance :=
  (s.sameBut_writeBytes a bs).trans (State.sameBut_advance _)

theorem State.sameBut_regs_pc_loadFirst_advance (a n : Nat) : SameBut [.regs, .pc] s (s.loadFirst a n).advance :=
  (s.sameBut_loadFirst a n).trans (State.sameBut_advance _)

theorem State.sameBut_pc_stack_push_setPc (a b : Word) (h : s.sp.val < 16) :
    SameBut [.pc, .stack] s ((s.push a h).setPc b) :=
  ((s.sameBut_push a h).trans (State.sameBut_pc_setPc _ b)).mono (by decide)

theorem State.sameBut_pc_stack_popSp_setPc (a : Word) : SameBut [.pc, .stack] s (s.popSp.setPc a) :=
  (s.sameBut_popSp.trans (State.sameBut_pc_setPc _ a)).mono (by decide)

theorem State.sameBut_drawSprite (x y n : Nibble) :
    SameBut [.regs, .screen, .dirty, .pc] s (s.drawSprite x y n) :=
  ((((s.sameBut_setFb _).trans (State.sameBut_setV _ vf _)).trans (State.sameBut_setDirty _ true)).trans
    (State.sameBut_advance _)).mono (by decide)

theorem State.sameBut_countDraw_setV_advance (x : Nibble) (b : Byte) :
    SameBut [.regs, .pc, .draws] s (s.countDraw.setV x b).advance :=
  (s.sameBut_countDraw.trans (State.sameBut_regs_pc_setV_advance _ x b)).mono (by decide)

theorem State.sameBut_setIdx_setFlag_advance (a : Word) (f : Bool) :
    SameBut [.regs, .index, .pc] s ((s.setIdx a).setFlag f).advance :=
  ((s.sameBut_setIdx a).trans (State.sameBut_regs_pc_setV_advance _ vf _)).mono (by decide)

end Sys2Proof.Machine
end

section
/-! SUPPORT. The parts of the state each instruction writes (spec/10_state.md R34), and from it what no instruction
writes. -/

namespace Sys2Proof.Machine

variable {s t : State} {i : Instr} {p : Part}

/-- The parts an instruction can write when it raises no fault. -/
def writtenParts (q : Config.Params) : Instr → List Part
  | .clearScreen => [.screen, .dirty, .pc]
  | .ret | .call _ => [.pc, .stack]
  | .sys _ => .pc :: if q.sysPolicy = .call then [.stack] else []
  | .jump _ | .jumpOffset _ | .skipEqConst _ _ | .skipNeConst _ _ | .skipEqReg _ _ | .skipNeReg _ _
  | .skipKeyPressed _ | .skipKeyNotPressed _ => [.pc]
  | .setConst _ _ | .addConst _ _ | .assign _ _ | .orReg _ _ | .andReg _ _ | .xorReg _ _ | .addReg _ _
  | .subReg _ _ | .shiftRight _ _ | .subReverse _ _ | .shiftLeft _ _ | .getDelay _ | .waitKey _
  | .loadRegs _ => [.regs, .pc]
  | .setIndex _ | .fontAddr _ => [.index, .pc]
  | .addIndex _ => [.regs, .index, .pc]
  | .random _ _ => [.regs, .pc, .draws]
  | .draw _ _ _ => [.regs, .screen, .dirty, .pc]
  | .setDelay _ | .setSound _ => [.timers, .pc]
  | .storeBcd _ | .dumpRegs _ => [.memory, .pc]

theorem Completes.sameBut (h : Completes s t i) : SameBut (writtenParts s.params i) s t := by
  cases i with
  | clearScreen => exact h ▸ s.sameBut_screen_dirty_pc_setFb_setDirty_advance _ _
  | ret =>
    obtain ⟨hsp, rfl⟩ := h
    exact s.sameBut_pc_stack_popSp_setPc _
  | call nnn =>
    obtain ⟨hsp, rfl⟩ := h
    exact s.sameBut_pc_stack_push_setPc _ _ hsp
  | sys nnn =>
    rcases h with ⟨hcall, hsp, rfl⟩ | ⟨hnop, rfl⟩
    · rw [writtenParts, if_pos hcall]
      exact s.sameBut_pc_stack_push_setPc _ _ hsp
    · rw [writtenParts, hnop]
      exact s.sameBut_advance
  | jump | jumpOffset | skipEqConst | skipNeConst | skipEqReg | skipNeReg | skipKeyPressed | skipKeyNotPressed =>
    exact h ▸ s.sameBut_pc_setPc _
  | setConst | addConst | assign | orReg | andReg | xorReg | getDelay =>
    exact h ▸ s.sameBut_regs_pc_setV_advance _ _
  | addReg | subReg | shiftRight | subReverse | shiftLeft => exact h ▸ s.sameBut_regs_pc _ _
  | waitKey x =>
    rcases h with ⟨k, _, rfl⟩ | ⟨_, rfl⟩
    · exact s.sameBut_regs_pc_setV_advance _ _
    · exact .refl _
  | loadRegs x => exact h.2 ▸ s.sameBut_regs_pc_loadFirst_advance _ _
  | setIndex | fontAddr => exact h ▸ s.sameBut_index_pc_setIdx_advance _
  | addIndex x =>
    rcases h with ⟨_, rfl⟩ | ⟨_, rfl⟩
    · exact s.sameBut_setIdx_setFlag_advance _ _
    · exact (s.sameBut_index_pc_setIdx_advance _).mono (fun _ => List.mem_cons_of_mem _)
  | random x kk => exact h ▸ s.sameBut_countDraw_setV_advance _ _
  | draw x y n => exact h.2 ▸ s.sameBut_drawSprite _ _ _
  | setDelay | setSound => exact h ▸ s.sameBut_timers_pc _ _ _
  | storeBcd | dumpRegs => exact h.2 ▸ s.sameBut_memory_pc_writeBytes_advance _ _

/-- What an instruction leaves, whether it raises a fault or not. -/
theorem exec_same (h : exec i s = .next t) (hl : p ≠ .latches) (hp : p ∉ writtenParts s.params i) : Same p s t := by
  rcases exec_cases h with ⟨f, _, rfl⟩ | hdone
  · exact s.sameBut_latches_raise f p (by simpa using hl)
  · exact hdone.sameBut p hp

/-- The parts that some instruction writes; the others are written by faults and outside events only. -/
def instrParts : List Part := [.regs, .index, .pc, .stack, .timers, .memory, .screen, .dirty, .draws]

theorem mem_instrParts_of_written {q : Config.Params} (h : p ∈ writtenParts q i) : p ∈ instrParts := by
  have hsub : ∀ p ∈ writtenParts q i, p ∈ instrParts := by
    cases i <;> simp [writtenParts, instrParts]
  exact hsub p h

theorem Completes.same_of_notMem_instrParts (h : Completes s t i) (hp : p ∉ instrParts) : Same p s t :=
  h.sameBut p (fun hmem => hp (mem_instrParts_of_written hmem))

theorem Completes.latches (h : Completes s t i) : t.halt = s.halt ∧ t.fault = s.fault :=
  h.same_of_notMem_instrParts (p := .latches) (by decide)

theorem Completes.params (h : Completes s t i) : t.params = s.params :=
  h.same_of_notMem_instrParts (p := .params) (by decide)

/-! ## Which instructions write a part -/

section

variable {q : Config.Params}

theorem index_written_iff : .index ∈ writtenParts q i ↔
    (∃ nnn, i = .setIndex nnn) ∨ (∃ x, i = .addIndex x) ∨ ∃ x, i = .fontAddr x := by
  cases i <;> simp [writtenParts]

theorem stack_written_iff : .stack ∈ writtenParts q i ↔
    (∃ nnn, i = .call nnn) ∨ i = .ret ∨ q.sysPolicy = .call ∧ ∃ nnn, i = .sys nnn := by
  cases i <;> simp [writtenParts]

theorem memory_written_iff : .memory ∈ writtenParts q i ↔ (∃ x, i = .storeBcd x) ∨ ∃ x, i = .dumpRegs x := by
  cases i <;> simp [writtenParts]

theorem screen_written_iff : .screen ∈ writtenParts q i ↔ i = .clearScreen ∨ ∃ x y n, i = .draw x y n := by
  cases i <;> simp [writtenParts]

theorem dirty_written_iff : .dirty ∈ writtenParts q i ↔ i = .clearScreen ∨ ∃ x y n, i = .draw x y n := by
  cases i <;> simp [writtenParts]

theorem timers_written_iff : .timers ∈ writtenParts q i ↔ (∃ x, i = .setDelay x) ∨ ∃ x, i = .setSound x := by
  cases i <;> simp [writtenParts]

theorem draws_written_iff : .draws ∈ writtenParts q i ↔ ∃ x kk, i = .random x kk := by
  cases i <;> simp [writtenParts]

end

/-! ## Registers and timers, one by one -/

/-- R21, R23: a register is written as a named destination or as the flag. -/
theorem Completes.getV {r : Nibble} (h : Completes s t i) (hd : namesDestination r i = false)
    (hf : r = vf → flagWriter s.params i = false) : t.getV r = s.getV r := by
  cases i with
  | setConst x | addConst x | random x | assign x | orReg x | andReg x | xorReg x | getDelay x =>
    obtain rfl := h
    exact State.getV_setV_ne _ x _ (beq_eq_false_iff_ne.mp hd)
  | addReg x | subReg x | shiftRight x | subReverse x | shiftLeft x =>
    obtain rfl := h
    have hvf : r ≠ vf := by simpa [flagWriter] using hf
    rw [State.getV_advance, State.getV_setFlagThenV, if_neg (beq_eq_false_iff_ne.mp hd), if_neg hvf]
  | draw x y n =>
    obtain ⟨_, rfl⟩ := h
    have hvf : r ≠ vf := by simpa [flagWriter] using hf
    exact State.getV_setV_ne _ vf _ hvf
  | waitKey x =>
    rcases h with ⟨k, _, rfl⟩ | ⟨_, rfl⟩
    · exact State.getV_setV_ne _ x _ (beq_eq_false_iff_ne.mp hd)
    · rfl
  | addIndex x =>
    rcases h with ⟨hlegacy, rfl⟩ | ⟨_, rfl⟩
    · have hvf : r ≠ vf := fun hr => absurd ((hf hr).symm.trans hlegacy) (by decide)
      exact State.getV_setV_ne _ vf _ hvf
    · rfl
  | loadRegs x =>
    obtain ⟨_, rfl⟩ := h
    have hr : x.toNat < r.toNat := by simpa [namesDestination] using hd
    rw [State.getV_advance, State.getV_loadFirst _ _ _ x.isLt, if_neg (by omega)]
  | _ => exact h.sameBut .regs (by simp [writtenParts]) r

theorem exec_dt (h : exec i s = .next t) (hi : ∀ x, i ≠ .setDelay x) : t.dt = s.dt := by
  by_cases hst : ∃ x, i = .setSound x
  · obtain ⟨x, rfl⟩ := hst
    cases h
    rfl
  · have hsame : Same .timers s t :=
      exec_same h (by decide) (fun hw => (timers_written_iff.mp hw).elim (fun ⟨x, hx⟩ => hi x hx) hst)
    exact hsame.1

theorem exec_st (h : exec i s = .next t) (hi : ∀ x, i ≠ .setSound x) : t.st = s.st := by
  by_cases hdt : ∃ x, i = .setDelay x
  · obtain ⟨x, rfl⟩ := hdt
    cases h
    rfl
  · have hsame : Same .timers s t :=
      exec_same h (by decide) (fun hw => (timers_written_iff.mp hw).elim hdt (fun ⟨x, hx⟩ => hi x hx))
    exact hsame.2

end Sys2Proof.Machine
end

section
/-! The statements of spec/10_state.md on who writes what. -/

open Sys2Proof Sys2Proof.Machine

/-- Settles O50: `STACK` is a written part of the three only, of `SYS` under its policy `Call`. -/
theorem stackTouchedOnlyByCallsAndReturns : Obligations.StackTouchedOnlyByCallsAndReturns := by
  intro i s t hexec hcall hret hsys
  refine exec_same hexec (by decide) (fun hw => ?_)
  rcases stack_written_iff.mp hw with ⟨nnn, hi⟩ | hi | ⟨hpolicy, nnn, hi⟩
  · exact hcall nnn hi
  · exact hret hi
  · exact hsys hpolicy nnn hi

/-- Settles O51: `I` is a written part of the three only. -/
theorem indexWrittenOnlyByThree : Obligations.IndexWrittenOnlyByThree := by
  intro i s t hexec hset hadd hfont
  refine exec_same hexec (by decide) (fun hw => ?_)
  rcases index_written_iff.mp hw with ⟨nnn, hi⟩ | ⟨x, hi⟩ | ⟨x, hi⟩
  · exact hset nnn hi
  · exact hadd x hi
  · exact hfont x hi

/-- Settles O52: a fault writes no register, and a completed instruction those of `Completes.getV` only. -/
theorem registersWrittenOnlyAsNamed : Obligations.RegistersWrittenOnlyAsNamed := by
  intro i s t r hexec hdest hflag
  rcases exec_cases hexec with ⟨f, _, rfl⟩ | hdone
  · rfl
  · exact hdone.getV hdest hflag

/-- Settles O53: by the written parts of the instructions; of the two timers each has one instruction of its own. -/
theorem devicesWrittenOnlyByTheirInstructions : Obligations.DevicesWrittenOnlyByTheirInstructions := by
  intro i s t hexec
  have hnever : ∀ p, p ≠ .latches → p ∉ instrParts → Same p s t :=
    fun p hl hp => exec_same hexec hl (fun hw => hp (mem_instrParts_of_written hw))
  refine ⟨fun hbcd hdump => ?memory, fun hcls hdraw => ⟨?screen, ?dirty⟩, exec_dt hexec, exec_st hexec,
    fun hrnd => ?draws, hnever .keys (by decide) (by decide), hnever .params (by decide) (by decide),
    hnever .agenda (by decide) (by decide), hnever .supply (by decide) (by decide)⟩
  case memory =>
    refine exec_same hexec (by decide) (fun hw => ?_)
    rcases memory_written_iff.mp hw with ⟨x, hi⟩ | ⟨x, hi⟩
    · exact hbcd x hi
    · exact hdump x hi
  case screen =>
    refine exec_same hexec (by decide) (fun hw => ?_)
    rcases screen_written_iff.mp hw with hi | ⟨x, y, n, hi⟩
    · exact hcls hi
    · exact hdraw x y n hi
  case dirty =>
    refine exec_same hexec (by decide) (fun hw => ?_)
    rcases dirty_written_iff.mp hw with hi | ⟨x, y, n, hi⟩
    · exact hcls hi
    · exact hdraw x y n hi
  case draws =>
    refine exec_same hexec (by decide) (fun hw => ?_)
    obtain ⟨x, kk, hi⟩ := draws_written_iff.mp hw
    exact hrnd x kk hi
end

section
/-! SUPPORT. The invariant of a state (spec/10_state.md R43, spec/40_control_flow.md R144): kept by a fault, by an
instruction that completes, by each event from outside. -/

namespace Sys2Proof.Machine

variable {s t u : State} {i : Instr}

/-- A core step raises a fault, or an instruction fetched inside memory completes. -/
theorem coreStep_outcome (h : coreStep s = .next t) :
    (∃ f, f ≠ .none ∧ t = s.raise f) ∨ (s.pc.toNat ≤ 0xFFE ∧ ∃ i, Completes s t i) := by
  rcases coreStep_cases s with ⟨_, hout⟩ | ⟨hpc, w, _, ⟨raw, _, hbad⟩ | ⟨i, _, hexec⟩⟩
  · cases hout.symm.trans h
    exact .inl ⟨_, by simp, rfl⟩
  · cases hbad.symm.trans h
    exact .inl ⟨_, by simp, rfl⟩
  · exact (exec_cases (hexec.symm.trans h)).imp id (fun hdone => ⟨hpc, i, hdone⟩)

/-! ## Memory under an instruction -/

/-- The two stores write inside memory, the other instructions write no byte. -/
theorem Completes.wf_mem (h : Completes s t i) (hs : Memory.wf s.params s.mem = true) :
    Memory.wf s.params t.mem = true := by
  have hstore : ∀ bs : List Byte, inRange s.idx.toNat bs.length = true →
      Memory.wf s.params (s.writeBytes s.idx.toNat bs).mem = true :=
    fun bs hr => s.wf_writeBytes _ bs hs ((inRange_iff _ _).mp hr)
  cases i with
  | storeBcd x =>
    obtain ⟨hr, rfl⟩ := h
    exact hstore _ hr
  | dumpRegs x =>
    obtain ⟨hr, rfl⟩ := h
    exact hstore _ (by rwa [State.length_firstRegs])
  | loadRegs x =>
    obtain ⟨_, rfl⟩ := h
    simpa using hs
  | ret | call | draw =>
    obtain ⟨_, rfl⟩ := h
    exact hs
  | sys | waitKey => rcases h with ⟨_, _, rfl⟩ | ⟨_, rfl⟩ <;> exact hs
  | addIndex => rcases h with ⟨_, rfl⟩ | ⟨_, rfl⟩ <;> exact hs
  | _ => exact h ▸ hs

/-! ## The call stack under an instruction -/

/-- R143: the only value an instruction puts on the call stack is the address it stands at. -/
theorem Completes.stack_eq_or_eq_pc (h : Completes s t i) (j : Fin 16) :
    t.stack[j] = s.stack[j] ∨ t.stack[j] = s.pc := by
  have hpush : ∀ (hsp : s.sp.val < 16) (a : Word),
      ((s.push s.pc hsp).setPc a).stack[j] = s.stack[j] ∨ ((s.push s.pc hsp).setPc a).stack[j] = s.pc := by
    intro hsp a
    rw [State.setPc_stack, State.stack_push]
    split
    · exact .inr rfl
    · exact .inl rfl
  by_cases hw : .stack ∈ writtenParts s.params i
  · rcases stack_written_iff.mp hw with ⟨nnn, rfl⟩ | rfl | ⟨_, nnn, rfl⟩
    · obtain ⟨hsp, rfl⟩ := h
      exact hpush hsp _
    · obtain ⟨_, rfl⟩ := h
      exact .inl rfl
    · rcases h with ⟨_, hsp, rfl⟩ | ⟨_, rfl⟩
      · exact hpush hsp _
      · exact .inl rfl
  · have hsame : Same .stack s t := h.sameBut .stack hw
    exact .inl (hsame.2 j)

/-! ## Each way a step can go -/

theorem State.Inv.raise (h : s.Inv) {f : FaultRecord} (hf : f ≠ .none) : (s.raise f).Inv where
  memWf := h.memWf
  haltIff := ⟨fun _ => hf, fun _ => rfl⟩
  stackFetchable := h.stackFetchable

theorem State.Inv.completes (hs : s.Inv) (hpc : s.pc.toNat ≤ 0xFFE) (h : Completes s t i) : t.Inv where
  memWf := h.params ▸ h.wf_mem hs.memWf
  haltIff := by rw [h.latches.1, h.latches.2, hs.haltIff]
  stackFetchable j := by
    rcases h.stack_eq_or_eq_pc j with hj | hj <;> rw [hj]
    · exact hs.stackFetchable j
    · exact hpc

theorem State.Inv.coreStep (hs : s.Inv) (h : coreStep s = .next t) : t.Inv := by
  rcases coreStep_outcome h with ⟨f, hf, rfl⟩ | ⟨hpc, i, hdone⟩
  · exact hs.raise hf
  · exact hs.completes hpc hdone

theorem State.Inv.setNext (h : s.Inv) (a : List Config.Event) (o : Option Nat) :
    ((s.setAgenda a).setSupply o).Inv :=
  ⟨h.memWf, h.haltIff, h.stackFetchable⟩

theorem State.Inv.consume (h : s.Inv) : s.consume.Inv := by
  obtain ⟨a, o, hs⟩ := s.consume_eq
  exact hs ▸ h.setNext a o

theorem State.inv_resetWith (p : Config.Params) : (State.resetWith p).Inv where
  memWf := rfl
  haltIff := by simp [State.resetWith]
  stackFetchable j := by simp [State.resetWith]

theorem State.inv_resetEvent (s : State) : (resetEvent s).Inv :=
  have h := State.inv_resetWith s.params
  ⟨h.memWf, h.haltIff, h.stackFetchable⟩

/-- An image of a permitted length ends inside memory. -/
theorem State.inv_loadImage (s : State) {bytes : List Byte} (hlen : bytes.length ≤ Config.maxImage) :
    (loadImage bytes s).Inv := by
  have h := s.inv_resetEvent
  have hfits : Config.progBase + bytes.length ≤ Config.memSize := Nat.add_le_add_left hlen Config.progBase
  constructor
  · rw [loadImage, State.writeBytes_params]
    exact (resetEvent s).wf_writeBytes _ bytes h.memWf (.inr hfits)
  · rw [loadImage, State.writeBytes_halt, State.writeBytes_fault, h.haltIff]
  · rw [loadImage, State.writeBytes_stack]
    exact h.stackFetchable

/-! ## The program counter after a core step (R26) -/

/-- Where an instruction can leave `pc`. -/
inductive NextPc (s : State) : Word → Prop
  | hold : NextPc s s.pc
  | plain : NextPc s (s.pc + 2)
  | skip : NextPc s (s.pc + 4)
  | jump (nnn : Addr12) : NextPc s (nnn.setWidth 16)
  | offset (nnn : Addr12) : NextPc s (s.offsetTarget nnn)
  | ret (j : Fin 16) : NextPc s (s.stack[j] + 2)

theorem NextPc.skipIf (s : State) (c : Bool) : NextPc s (s.skipIf c).pc := by
  cases c
  · exact .plain
  · exact .skip

theorem Completes.nextPc (h : Completes s t i) : NextPc s t.pc := by
  cases i with
  | ret =>
    obtain ⟨hsp, rfl⟩ := h
    exact .ret ⟨s.sp.val - 1, by omega⟩
  | jump nnn => exact h ▸ .jump nnn
  | call nnn =>
    obtain ⟨_, rfl⟩ := h
    exact .jump nnn
  | sys nnn =>
    rcases h with ⟨_, _, rfl⟩ | ⟨_, rfl⟩
    · exact .jump nnn
    · exact .plain
  | jumpOffset nnn => exact h ▸ .offset nnn
  | skipEqConst | skipNeConst | skipEqReg | skipNeReg | skipKeyPressed | skipKeyNotPressed =>
    exact h ▸ .skipIf s _
  | waitKey x =>
    rcases h with ⟨_, _, rfl⟩ | ⟨_, rfl⟩
    · exact .plain
    · exact .hold
  | addIndex x => rcases h with ⟨_, rfl⟩ | ⟨_, rfl⟩ <;> exact .plain
  | draw =>
    obtain ⟨_, rfl⟩ := h
    exact .plain
  | storeBcd | dumpRegs | loadRegs =>
    obtain ⟨_, rfl⟩ := h
    simpa using NextPc.plain
  | _ => exact h ▸ .plain

/-- R145: the sum of a 12-bit address and a byte needs no wrap. -/
theorem State.toNat_offsetTarget (s : State) (nnn : Addr12) :
    (s.offsetTarget nnn).toNat = nnn.toNat + (s.getV 0).toNat := by
  have hnnn := nnn.isLt
  have hv := (s.getV 0).isLt
  simp only [State.offsetTarget, BitVec.toNat_add, BitVec.toNat_setWidth]
  omega

theorem State.toNat_offsetTarget_le (s : State) (nnn : Addr12) : (s.offsetTarget nnn).toNat ≤ 0x10FE := by
  have hnnn := nnn.isLt
  have hv := (s.getV 0).isLt
  rw [State.toNat_offsetTarget]
  omega

theorem NextPc.toNat_le {a : Word} (h : NextPc s a) (hstack : ∀ j : Fin 16, s.stack[j].toNat ≤ 0xFFE)
    (hpc : s.pc.toNat ≤ 0xFFE) : a.toNat ≤ 0x10FE := by
  have hadd : ∀ (a k : Word), a.toNat ≤ 0xFFE → k.toNat ≤ 4 → (a + k).toNat ≤ 0x10FE := by
    intro a k ha hk
    rw [BitVec.toNat_add]
    omega
  cases h with
  | hold => omega
  | plain => exact hadd _ 2 hpc (by decide)
  | skip => exact hadd _ 4 hpc (by decide)
  | jump nnn =>
    have hnnn := nnn.isLt
    rw [BitVec.toNat_setWidth_of_le (by decide)]
    omega
  | offset nnn => exact s.toNat_offsetTarget_le nnn
  | ret j => exact hadd _ 2 (hstack j) (by decide)

end Sys2Proof.Machine
end

section
/-! The statements of spec/10_state.md on what every step keeps. -/

open Sys2Proof Sys2Proof.Machine

/-- Settles O47: a core step keeps the invariant (`State.Inv.coreStep`), the events that touch timers, keys or `DIRTY`
write nothing it speaks of, and the other two start from the reset state. -/
theorem stepKeepsInvariant : Obligations.StepKeepsInvariant := by
  intro s t hs hstep
  have hc := hs.consume
  rcases step_cases hstep with ⟨u, hturn, _, hcore⟩ | ⟨_, _, rfl⟩ | ⟨_, rfl⟩ | ⟨k, p, _, rfl⟩ | ⟨_, rfl⟩ | ⟨_, rfl⟩ |
    ⟨bytes, _, hlen, rfl⟩
  · obtain ⟨a, o, rfl⟩ := hturn.eq
    exact (hs.setNext a o).coreStep hcore
  · exact hc
  · exact ⟨hc.memWf, hc.haltIff, hc.stackFetchable⟩
  · exact ⟨hc.memWf, hc.haltIff, hc.stackFetchable⟩
  · exact ⟨hc.memWf, hc.haltIff, hc.stackFetchable⟩
  · exact s.consume.inv_resetEvent
  · exact s.consume.inv_loadImage hlen

/-- Settles O48: `State.inv_resetWith`; an outside that goes on is another supply only. -/
theorem resetMeetsInvariant : Obligations.ResetMeetsInvariant :=
  ⟨State.inv_resetWith defaultParams, fun p =>
    have h := State.inv_resetWith p
    ⟨h, h.memWf, h.haltIff, h.stackFetchable⟩⟩

/-- Settles O49: a fault leaves `pc`, and a completed instruction takes it to one of the places of `NextPc`. -/
theorem programCounterBound : Obligations.ProgramCounterBound := by
  intro s t hstack hpc hstep
  rcases coreStep_outcome hstep with ⟨f, _, rfl⟩ | ⟨_, i, hdone⟩
  · exact hpc.trans (by decide)
  · exact hdone.nextPc.toNat_le hstack hpc
end

section
/-! SUPPORT. Which event is due and what a step uses up (spec/00_scope.md R7; log 2); the word the CORE fetches and runs
(spec/60_exceptions.md R240); that a step always goes on but where nothing can move (R248). -/

namespace Sys2Proof.Machine

open Config (Event)

variable {s t u : State} {i : Instr} {p : Part}

/-! ## The due event and its use (log 2) -/

theorem State.due_eq_none_iff : s.due = none ↔ s.agenda = [] ∧ s.supply = none := by
  cases h : s.agenda with
  | nil => simp [s.due_nil h]
  | cons e rest => simp [s.due_cons h]

theorem State.consume_of_cons {e : Event} {rest : List Event} (h : s.agenda = e :: rest) :
    s.consume = s.setAgenda rest := by
  rw [State.consume, h]

theorem State.consume_of_nil (h : s.agenda = []) : s.consume = s.setSupply (s.supply.map (· + 1)) := by
  rw [State.consume, h]

/-- Where no event is due, none is used up. -/
theorem State.consume_of_due_none (h : s.due = none) : s.consume = s := by
  obtain ⟨hagenda, hsupply⟩ := State.due_eq_none_iff.mp h
  rw [State.consume_of_nil hagenda, hsupply, Option.map_none, ← hsupply]
  rfl

theorem CoreTurn.eq_consume (h : CoreTurn s u) : u = s.consume := by
  rcases h with ⟨hdue, rfl⟩ | ⟨_, rfl⟩
  · exact (State.consume_of_due_none hdue).symm
  · rfl

/-- What no instruction writes, a core step leaves. -/
theorem coreStep_same (h : coreStep s = .next t) (hl : p ≠ .latches) (hp : p ∉ instrParts) : Same p s t := by
  rcases coreStep_outcome h with ⟨f, _, rfl⟩ | ⟨_, i, hdone⟩
  · exact s.sameBut_latches_raise f p (by simpa using hl)
  · exact hdone.same_of_notMem_instrParts hp

/-! ## The events from outside: what each writes -/

theorem sameBut_tick (s : State) : SameBut [.timers] s (tick s) :=
  ((s.sameBut_setDt _).trans (State.sameBut_setSt _ _)).mono (by decide)

theorem toNat_countDown (b : Byte) : (countDown b).toNat = b.toNat - 1 := by
  unfold countDown
  split
  · next h => rw [h]; rfl
  · next h =>
    have hb := b.isLt
    have hne : b.toNat ≠ 0 := fun h0 => h (BitVec.eq_of_toNat_eq h0)
    rw [BitVec.toNat_sub_of_le (by rw [BitVec.le_def]; exact Nat.one_le_iff_ne_zero.mpr hne)]
    rfl

/-- A reset keeps the parameters, what comes next and the count of samplings (log 7). -/
theorem resetEvent_same (s : State) (hp : p ∈ [Part.params, .draws, .agenda, .supply]) : Same p s (resetEvent s) := by
  simp only [List.mem_cons, List.not_mem_nil, or_false] at hp
  rcases hp with rfl | rfl | rfl | rfl <;> rfl

theorem loadImage_same (bytes : List Byte) (s : State) (hp : p ∈ [Part.params, .draws, .agenda, .supply]) :
    Same p s (loadImage bytes s) :=
  (resetEvent_same s hp).trans
    ((resetEvent s).sameBut_writeBytes _ bytes p (fun hm => absurd (List.mem_singleton.mp hm ▸ hp) (by decide)))

/-- A step keeps the parameters, and of what comes next it uses up the due event. -/
theorem step_same_consume (h : step s = .next t) (hp : p ∈ [Part.params, .agenda, .supply]) : Same p s.consume t := by
  have hsub : ∀ p ∈ [Part.params, .agenda, .supply], p ∈ [Part.params, .draws, .agenda, .supply] ∧ p ≠ .latches ∧
    p ∉ instrParts ∧ p ∉ [Part.timers] ∧ p ∉ [Part.keys] ∧ p ∉ [Part.dirty] := by decide
  obtain ⟨hreset, hl, hinstr, htimers, hkeys, hdirty⟩ := hsub p hp
  rcases step_cases h with ⟨u, hturn, _, hcore⟩ | ⟨_, _, rfl⟩ | ⟨_, rfl⟩ | ⟨k, d, _, rfl⟩ | ⟨_, rfl⟩ | ⟨_, rfl⟩ |
    ⟨bytes, _, _, rfl⟩
  · exact hturn.eq_consume ▸ coreStep_same hcore hl hinstr
  · exact .refl p _
  · exact sameBut_tick _ p htimers
  · exact State.sameBut_setKey _ k d p hkeys
  · exact State.sameBut_setDirty _ false p hdirty
  · exact resetEvent_same _ hreset
  · exact loadImage_same bytes _ hreset

/-! ## The word at `pc` (R60, R240) -/

theorem coreStep_of_decode_ok (hpc : s.pc.toNat ≤ 0xFFE)
    (hd : decode (wordOfBytes (s.readByte s.pc.toNat) (s.readByte (s.pc.toNat + 1))) = .ok i) :
    coreStep s = exec i s := by
  rcases coreStep_cases s with ⟨hout, _⟩ | ⟨_, w, rfl, ⟨raw, hbad, _⟩ | ⟨j, hok, hexec⟩⟩
  · omega
  · cases hbad.symm.trans hd
  · cases hok.symm.trans hd
    exact hexec

/-- A fetch above 0xFFE is the fault entry, with the address of R63. -/
theorem coreStep_of_fetch_outside (h : 0xFFE < s.pc.toNat) :
    ∃ t a, coreStep s = .next t ∧ Faulted (.outOfBoundsAccess a) s t ∧
      a.toNat = if 0xFFF < s.pc.toNat then s.pc.toNat else 0x1000 := by
  rcases coreStep_cases s with ⟨_, hout⟩ | ⟨hin, _⟩
  · exact ⟨_, _, hout, s.faulted_raise _, toNat_lowestOutside _ (by have := s.pc.isLt; omega)⟩
  · omega

/-! ## A word placed at `pc` (log 9) -/

/-- The machine with `HALT = 0`, no fault recorded and no event due. -/
def State.readied (s : State) : State := { s with halt := false, fault := .none, agenda := [], supply := none }

theorem State.sameBut_readied (s : State) : SameBut [.latches, .agenda, .supply] s s.readied := by
  intro p hp
  cases p with
  | latches | agenda | supply => exact absurd (by decide) hp
  | stack => exact ⟨rfl, fun _ => rfl⟩
  | timers => exact ⟨rfl, rfl⟩
  | screen => exact fun _ _ => rfl
  | regs | memory | keys => exact fun _ => rfl
  | _ => exact rfl

theorem State.withFetchWord_eq (hpc : s.pc.toNat ≤ 0xFFE) {w : Nat} (hw : w < 65536) :
    s.withFetchWord 16 w = (s.writeBytes s.pc.toNat (bytesOfWord (BitVec.ofNat 16 w))).readied := by
  rw [State.withFetchWord, placeWord, if_neg hpc.not_gt, Nat.mod_eq_of_lt (show w < 2 ^ 16 from hw)]
  rfl

/-- The two bytes of a stored word are read as that word. -/
theorem State.wordOfBytes_writeBytes (s : State) (a : Nat) (w : Word) :
    wordOfBytes ((s.writeBytes a (bytesOfWord w)).readByte a)
      ((s.writeBytes a (bytesOfWord w)).readByte (a + 1)) = w := by
  have hlen : (bytesOfWord w).length = 2 := rfl
  have h0 := s.readByte_writeBytes_inside a (bytesOfWord w) 0 (by omega)
  have h1 := s.readByte_writeBytes_inside a (bytesOfWord w) 1 (by omega)
  rw [Nat.add_zero] at h0
  rw [h0, h1]
  exact wordOfBytes_bytes w

/-! ## Steps that do not go on (R248, R285) -/

theorem runCore_cases (s : State) : (∃ t, runCore s = .next t) ∨ (s.halt = true ∧ runCore s = .fault .halted) := by
  unfold runCore
  cases s.halt
  · exact .inl (coreStep_next s)
  · exact .inr ⟨rfl, rfl⟩

theorem deliver_cases (e : Event) (s : State) : (∃ t, deliver e s = .next t) ∨
    (∃ bytes, e = .loadImage bytes ∧ 3584 < bytes.length ∧ deliver e s = .refused .imageTooLong) := by
  cases e with
  | step =>
    unfold deliver
    cases s.halt
    · exact .inl (coreStep_next s)
    · exact .inl ⟨s, rfl⟩
  | loadImage bytes =>
    by_cases hlen : bytes.length ≤ Config.maxImage
    · exact .inl ⟨_, if_pos hlen⟩
    · exact .inr ⟨bytes, rfl, Nat.lt_of_not_le hlen, if_neg hlen⟩
  | _ => exact .inl ⟨_, rfl⟩

end Sys2Proof.Machine
end

section
/-! The statements of spec/60_exceptions.md on the instruction cycle, the faults and the events, and the conventions on
what comes next. -/

open Sys2Proof Sys2Proof.Machine

/-- Settles O44: an instruction that completes leaves `HALT` at 0, so the step was a fault entry. -/
theorem faultsArePrecise : Obligations.FaultsArePrecise := by
  intro s t hrun hstep hhalt
  rcases coreStep_outcome hstep with ⟨f, hf, rfl⟩ | ⟨_, i, hdone⟩
  · exact ⟨hf, s.sameBut_latches_raise f⟩
  · rw [hdone.latches.1, hrun] at hhalt
    exact absurd hhalt (by decide)

/-- Settles O45: a halted CORE does not step, and the events left write timers, keys or `DIRTY`. -/
theorem haltedMachineKeepsRecord : Obligations.HaltedMachineKeepsRecord := by
  intro s hhalt
  refine ⟨fun hdue => (step_of_due_none hdue).trans (if_pos hhalt), fun t hstep hreset hload => ?_⟩
  have hc := s.sameBut_consume
  rcases step_cases hstep with ⟨u, _, hrun, _⟩ | ⟨_, _, rfl⟩ | ⟨_, rfl⟩ | ⟨k, d, _, rfl⟩ | ⟨_, rfl⟩ | ⟨hdue, _⟩ |
    ⟨bytes, hdue, _⟩
  · exact absurd (hhalt.symm.trans hrun) (by decide)
  · exact hc.mono (by decide)
  · exact (hc.trans (sameBut_tick _)).mono (by decide)
  · exact (hc.trans (State.sameBut_setKey _ k d)).mono (by decide)
  · exact (hc.trans (State.sameBut_setDirty _ false)).mono (by decide)
  · exact absurd hdue hreset
  · exact absurd hdue (hload bytes)

/-- Settles O46: the CORE stops where it is halted, an event only where its image is too long. -/
theorem stepStopsOnlyWhereNothingCanMove : Obligations.StepStopsOnlyWhereNothingCanMove := by
  intro s
  cases hdue : s.due with
  | none =>
    rw [step_of_due_none hdue]
    rcases runCore_cases s with hnext | ⟨hhalt, hstop⟩
    · exact .inl hnext
    · exact .inr (.inl ⟨hstop, hhalt, rfl⟩)
  | some e =>
    rw [step_of_due_some hdue]
    rcases deliver_cases e s.consume with hnext | ⟨bytes, rfl, hlen, hstop⟩
    · exact .inl hnext
    · exact .inr (.inr ⟨hstop, bytes, rfl, hlen⟩)

/-- Settles O59: `step_same_consume`, in each case of what comes next. -/
theorem agendaConsumedAndParamsKept : Obligations.AgendaConsumedAndParamsKept := by
  intro s t hstep
  have hparams : t.params = s.consume.params := step_same_consume (p := .params) hstep (by decide)
  have hagenda : t.agenda = s.consume.agenda := step_same_consume (p := .agenda) hstep (by decide)
  have hsupply : t.supply = s.consume.supply := step_same_consume (p := .supply) hstep (by decide)
  refine ⟨hparams.trans s.consume_params, fun e rest hs => ?_, fun k hs hk => ?_, fun hs hk => ?_⟩
  · rw [State.consume_of_cons hs] at hagenda hsupply
    exact ⟨s.due_cons hs, hagenda, hsupply⟩
  · rw [State.consume_of_nil hs, hk] at hagenda hsupply
    exact ⟨by rw [s.due_nil hs, hk, Option.map_some], hagenda.trans hs, hsupply⟩
  · have hdue : s.due = none := State.due_eq_none_iff.mpr ⟨hs, hk⟩
    rw [State.consume_of_due_none hdue] at hagenda hsupply
    exact ⟨hdue, hagenda.trans hs, hsupply.trans hk⟩

/-- Settles O40: the step is the core step of `u`, which has the `pc` and the memory of `s`. -/
theorem stepRunsDecodedInstruction : Obligations.StepRunsDecodedInstruction := by
  intro s u i hturn hrun hpc hd
  rw [step_of_coreTurn hturn hrun]
  refine coreStep_of_decode_ok (hturn.pc_eq ▸ hpc) ?_
  rw [hturn.pc_eq, hturn.readByte_eq, hturn.readByte_eq, wordOfBytes_eq, hd]

/-- Settles O42: the step is the core step of `u`, which has the `pc` of `s`. -/
theorem fetchOutsideMemoryFaults : Obligations.FetchOutsideMemoryFaults := by
  intro s u hturn hrun hpc
  rw [step_of_coreTurn hturn hrun, ← hturn.pc_eq]
  exact coreStep_of_fetch_outside (hturn.pc_eq ▸ hpc)

/-- Settles O41: the bytes placed at `pc` are read back as the word, and nothing is due but the CORE's step. -/
theorem placedWordRuns : Obligations.PlacedWordRuns := by
  intro s u w i hpc hw hd hu
  obtain rfl := hu.trans (State.withFetchWord_eq hpc hw)
  refine ⟨?runs, fun a ha ha' => ?bytes, rfl, rfl, rfl,
    ((s.sameBut_writeBytes _ _).trans (State.sameBut_readied _)).mono (by decide)⟩
  case runs =>
    rw [step_of_coreTurn (.inl ⟨rfl, rfl⟩) rfl]
    have hsame : (s.writeBytes s.pc.toNat (bytesOfWord (BitVec.ofNat 16 w))).readied.pc = s.pc := State.writeBytes_pc ..
    refine coreStep_of_decode_ok (hsame ▸ hpc) ?_
    rw [hsame]
    exact (congrArg decode (s.wordOfBytes_writeBytes _ _)).trans hd
  case bytes =>
    refine s.readByte_writeBytes_outside _ _ a ?_
    have hlen : (bytesOfWord (BitVec.ofNat 16 w)).length = 2 := rfl
    omega

/-- Settles O55: the due `Tick` is `tick`, and `countDown` is the subtraction that floors at zero. -/
theorem tickCountsDown : Obligations.TickCountsDown := by
  intro s hdue
  refine ⟨_, step_of_due_some hdue, ?_, ?_, sameBut_tick _⟩
  · exact (toNat_countDown _).trans (by rw [State.consume_dt])
  · exact (toNat_countDown _).trans (by rw [State.consume_st])

/-- Settles O56: the two events are `setKey` and `setDirty`. -/
theorem keyEventAndPresentAck : Obligations.KeyEventAndPresentAck := by
  intro s
  refine ⟨fun k d hdue => ?_, fun hdue => ?_⟩
  · refine ⟨_, step_of_due_some hdue, ?_, fun j hj => ?_, State.sameBut_setKey _ k d⟩
    · rw [keyEvent, State.key_setKey, if_pos rfl]
    · rw [keyEvent, State.key_setKey, if_neg hj, State.key_consume]
  · exact ⟨_, step_of_due_some hdue, rfl, State.sameBut_setDirty _ false⟩
end

section
/-! SUPPORT. The reset table (spec/10_state.md R38, R39) and what keeps its rows (spec/70_reset_and_hazards.md R280,
R284). -/

namespace Sys2Proof.Machine

variable {s t : State} {p : Config.Params}

/-! ## Memory after reset -/

/-- R38: byte `j` of glyph `d` stands at `5 * d + j`. -/
theorem resetByte_glyph (p : Config.Params) (d : Fin 16) (j : Fin 5) :
    resetByte p (5 * d.val + j.val) = p.fontTable[d][j] := by
  have hdiv : (5 * d.val + j.val) / 5 = d.val := by omega
  have hmod : (5 * d.val + j.val) % 5 = j.val := by omega
  rw [resetByte, dif_pos (by omega)]
  simp only [hdiv, hmod]
  rfl

theorem resetByte_of_ge {a : Nat} (h : 0x050 ≤ a) : resetByte p a = 0 := dif_neg (by omega)

theorem holdsResetByte_of_readByte {a : Nat} (h : t.readByte a = resetByte p a) : HoldsResetByte p t a := by
  refine ⟨?_, fun ha => h.trans (resetByte_of_ge ha)⟩
  rintro d j rfl
  exact h.trans (resetByte_glyph p d j)

/-! ## The other rows -/

theorem resetButMemory_resetWith (p : Config.Params) : ResetButMemory p (State.resetWith p) where
  regs r := by simp [State.getV, State.resetWith]
  index := rfl
  pc := rfl
  sp := rfl
  stack j := by simp [State.resetWith]
  timers := ⟨rfl, rfl⟩
  screen := pixel_blankScreen
  dirty := rfl
  keys k := by simp [State.key, State.resetWith]
  latches := ⟨rfl, rfl⟩
  params := rfl

/-- No row but memory's speaks of memory or of what is no machine state (log 7). -/
theorem ResetButMemory.of_sameBut (h : ResetButMemory p s)
    (hs : SameBut [.memory, .agenda, .supply, .draws] s t) : ResetButMemory p t where
  regs r := (hs .regs (by decide) r).trans (h.regs r)
  index := Eq.trans (hs .index (by decide)) h.index
  pc := Eq.trans (hs .pc (by decide)) h.pc
  sp := (congrArg Fin.val (hs .stack (by decide)).1).trans h.sp
  stack j := ((hs .stack (by decide)).2 j).trans (h.stack j)
  timers := ⟨(hs .timers (by decide)).1.trans h.timers.1, (hs .timers (by decide)).2.trans h.timers.2⟩
  screen r c := (hs .screen (by decide) r c).trans (h.screen r c)
  dirty := Eq.trans (hs .dirty (by decide)) h.dirty
  keys k := (hs .keys (by decide) k).trans (h.keys k)
  latches := ⟨(hs .latches (by decide)).1.trans h.latches.1, (hs .latches (by decide)).2.trans h.latches.2⟩
  params := Eq.trans (hs .params (by decide)) h.params

theorem resetButMemory_resetEvent (s : State) : ResetButMemory s.params (resetEvent s) :=
  have h := resetButMemory_resetWith s.params
  { h with }

theorem resetButMemory_loadImage (bytes : List Byte) (s : State) : ResetButMemory s.params (loadImage bytes s) :=
  (resetButMemory_resetEvent s).of_sameBut (((resetEvent s).sameBut_writeBytes _ bytes).mono (by decide))

theorem readByte_resetEvent (s : State) (a : Nat) : (resetEvent s).readByte a = resetByte s.params a := rfl

end Sys2Proof.Machine
end

section
/-! The statements of spec/70_reset_and_hazards.md. -/

open Sys2Proof Sys2Proof.Machine

/-- Settles O57: after power-on and after a `Reset` event every row of the table holds. -/
theorem resetGivesResetTable : Obligations.ResetGivesResetTable := by
  refine ⟨⟨resetButMemory_resetWith _, fun a => holdsResetByte_of_readByte rfl, rfl⟩, fun s hdue => ?_⟩
  refine ⟨_, step_of_due_some hdue, ?table, fun a => ?bytes, ?_, ?_, ?_⟩
  case table => exact s.consume_params ▸ resetButMemory_resetEvent s.consume
  case bytes => exact s.consume_params ▸ holdsResetByte_of_readByte (readByte_resetEvent s.consume a)
  · exact resetEvent_same _ (by decide)
  · exact resetEvent_same _ (by decide)
  · exact s.consume_draws

/-- Settles O58: the image lies over the reset machine; `deliver` refuses a longer one. -/
theorem loadImageCopiesAfterReset : Obligations.LoadImageCopiesAfterReset := by
  intro s bytes hdue
  refine ⟨fun hlen => ?_, fun hlen => (step_of_due_some hdue).trans (if_neg hlen.not_ge)⟩
  refine ⟨_, (step_of_due_some hdue).trans (if_pos hlen), ?table, fun k hk => ?image, fun a ha => ?bytes, ?_, ?_, ?_⟩
  case table => exact s.consume_params ▸ resetButMemory_loadImage bytes s.consume
  case image => exact State.readByte_writeBytes_inside _ _ bytes k hk
  case bytes =>
    have hbyte : (loadImage bytes s.consume).readByte a = resetByte s.consume.params a :=
      (State.readByte_writeBytes_outside _ _ bytes a ha).trans (readByte_resetEvent _ a)
    exact s.consume_params ▸ holdsResetByte_of_readByte hbyte
  · exact loadImage_same bytes _ (by decide)
  · exact loadImage_same bytes _ (by decide)
  · exact Eq.trans (loadImage_same (p := .draws) bytes s.consume (by decide)) s.consume_draws
end

section
/-! SUPPORT. No instruction reads `ST` or `DIRTY` (spec/10_state.md R29, R32): under other values of the two it does the
same. -/

namespace Sys2Proof.Machine

variable {s t : State} (b : Byte) (d : Bool)

theorem State.writeBytes_setSt_setDirty (a : Nat) (bs : List Byte) :
    ((s.setSt b).setDirty d).writeBytes a bs = ((s.writeBytes a bs).setSt b).setDirty d := by
  induction bs generalizing s a with
  | nil => rfl
  | cons x xs ih => exact ih (s := s.writeByte a x) (a + 1)

theorem State.loadFirst_setSt_setDirty (a n : Nat) :
    ((s.setSt b).setDirty d).loadFirst a n = ((s.loadFirst a n).setSt b).setDirty d := by
  induction n with
  | zero => rfl
  | succ n ih => rw [State.loadFirst, ih]; rfl

theorem State.firstKey_setSt_setDirty : ((s.setSt b).setDirty d).firstKey = s.firstKey := by
  have hfrom : ∀ n k, ((s.setSt b).setDirty d).firstKeyFrom k n = s.firstKeyFrom k n := by
    intro n
    induction n with
    | zero => exact fun _ => rfl
    | succ n ih => exact fun k => by rw [State.firstKeyFrom, ih]; rfl
  exact hfrom 16 0

/-- `t'` is `t` with other values of `ST` and `DIRTY`. -/
def SameButSoundDirty (t t' : State) : Prop := ∃ b d, t' = (t.setSt b).setDirty d

theorem SameButSoundDirty.sameBut {t' : State} (h : SameButSoundDirty t t') :
    SameBut [.timers, .dirty] t t' ∧ t'.dt = t.dt := by
  obtain ⟨b, d, rfl⟩ := h
  exact ⟨(t.sameBut_setSt b).trans (State.sameBut_setDirty _ d), rfl⟩

theorem exec_setSt_setDirty {i : Instr} (h : exec i s = .next t) :
    ∃ u, exec i ((s.setSt b).setDirty d) = .next u ∧ SameButSoundDirty t u := by
  have range : ∀ n (v v' : State) (k : State → Result), s.withRange n (fun _ => .next v) = .next t →
      k ((s.setSt b).setDirty d) = .next v' → SameButSoundDirty v v' →
      ∃ u, ((s.setSt b).setDirty d).withRange n k = .next u ∧ SameButSoundDirty t u := by
    intro n v v' k hv hk hsame
    unfold State.withRange at hv ⊢
    split at hv <;> rename_i hc <;> cases hv
    · exact ⟨v', (if_pos hc).trans hk, hsame⟩
    · exact ⟨_, if_neg hc, b, d, rfl⟩
  have call : ∀ nnn, s.callTo nnn = .next t →
      ∃ u, ((s.setSt b).setDirty d).callTo nnn = .next u ∧ SameButSoundDirty t u := by
    intro nnn hu
    unfold State.callTo at hu ⊢
    split at hu <;> rename_i hc <;> cases hu
    · exact ⟨_, dif_pos hc, b, d, rfl⟩
    · exact ⟨_, dif_neg hc, b, d, rfl⟩
  cases i with
  | clearScreen =>
    cases h
    exact ⟨_, rfl, b, true, rfl⟩
  | setSound x =>
    cases h
    exact ⟨_, rfl, s.getV x, d, rfl⟩
  | ret =>
    simp only [exec, execRet] at h ⊢
    split at h <;> rename_i hc <;> cases h
    · exact ⟨_, dif_pos hc, b, d, rfl⟩
    · exact ⟨_, dif_neg hc, b, d, rfl⟩
  | call nnn => exact call nnn h
  | sys nnn =>
    simp only [exec, execSys, State.setDirty_params, State.setSt_params] at h ⊢
    split at h
    · cases h
      exact ⟨_, rfl, b, d, rfl⟩
    · exact call nnn h
    · cases h
      exact ⟨_, rfl, b, d, rfl⟩
  | waitKey x =>
    simp only [exec, execWaitKey, State.firstKey_setSt_setDirty] at h ⊢
    split at h <;> cases h <;> exact ⟨_, rfl, b, d, rfl⟩
  | addIndex x =>
    cases h
    refine ⟨_, rfl, b, d, ?_⟩
    rw [State.setDirty_params, State.setSt_params]
    split <;> rfl
  | draw x y n =>
    exact range n.toNat (s.drawSprite x y n) _ (fun u => .next (u.drawSprite x y n)) h rfl ⟨b, true, rfl⟩
  | storeBcd x =>
    exact range 3 (s.writeBytes s.idx.toNat (bcdDigits (s.getV x))).advance _
      (fun u => .next (u.writeBytes u.idx.toNat (bcdDigits (u.getV x))).advance) h rfl
      ⟨b, d, congrArg State.advance (State.writeBytes_setSt_setDirty b d _ _)⟩
  | dumpRegs x =>
    exact range (x.toNat + 1) (s.writeBytes s.idx.toNat (s.firstRegs (x.toNat + 1))).advance _
      (fun u => .next (u.writeBytes u.idx.toNat (u.firstRegs (x.toNat + 1))).advance) h rfl
      ⟨b, d, congrArg State.advance (State.writeBytes_setSt_setDirty b d _ _)⟩
  | loadRegs x =>
    exact range (x.toNat + 1) (s.loadFirst s.idx.toNat (x.toNat + 1)).advance _
      (fun u => .next (u.loadFirst u.idx.toNat (x.toNat + 1)).advance) h rfl
      ⟨b, d, congrArg State.advance (State.loadFirst_setSt_setDirty b d _ _)⟩
  | _ =>
    cases h
    exact ⟨_, rfl, b, d, rfl⟩

end Sys2Proof.Machine
end

section
/-! The statement of spec/10_state.md on `ST` and `DIRTY`. -/

open Sys2Proof Sys2Proof.Machine

/-- Settles O54: `exec_setSt_setDirty`. -/
theorem soundAndDirtyNeverRead : Obligations.SoundAndDirtyNeverRead := by
  intro i s t b d hexec
  obtain ⟨u, hexec', hsame⟩ := exec_setSt_setDirty b d hexec
  exact ⟨u, hexec', hsame.sameBut⟩
end

section
/-! SUPPORT. Calls and returns inside the bounds of the call stack (spec/40_control_flow.md R143, R144). -/

namespace Sys2Proof.Machine

variable {s : State} {nnn : Addr12}

theorem exec_call_of_room (h : s.sp.val < 16) :
    exec (.call nnn) s = .next ((s.push s.pc h).setPc (nnn.setWidth 16)) :=
  dif_pos h

theorem exec_ret_of_used (h : 0 < s.sp.val) : exec .ret s = .next (s.popSp.setPc (s.top h + 2)) :=
  dif_pos h

theorem State.top_eq {j : Fin 16} (h : 0 < s.sp.val) (hj : s.sp.val = j.val + 1) : s.top h = s.stack[j] := by
  have hidx : s.sp.val - 1 = j.val := by omega
  simp only [State.top, hidx]
  rfl

end Sys2Proof.Machine
end

section
/-! The statements of spec/40_control_flow.md on calls, returns and the jump with an offset. -/

open Sys2Proof Sys2Proof.Machine

/-- Settles O10: below the full stack the next state is the push and the jump. -/
theorem callPushesAndJumps : Obligations.CallPushesAndJumps := by
  intro s nnn hroom
  exact ⟨_, exec_call_of_room hroom, rfl, s.stack_push s.pc hroom, BitVec.toNat_setWidth_of_le (by decide),
    s.sameBut_pc_stack_push_setPc _ _ hroom⟩

/-- Settles O12: above the empty stack the next state is the pop and the jump behind the saved address. -/
theorem returnPopsAndAdvances : Obligations.ReturnPopsAndAdvances := by
  intro s j hsp
  have hused : 0 < s.sp.val := by omega
  refine ⟨_, exec_ret_of_used hused, ?_, fun _ => rfl, ?_, s.sameBut_pc_stack_popSp_setPc _⟩
  · exact Nat.sub_eq_of_eq_add hsp
  · exact congrArg (· + 2) (State.top_eq hused hsp)

/-- Settles O14: the `CALL` leaves its own address in the slot the `RET` reads (`callPushesAndJumps`,
`returnPopsAndAdvances`). -/
theorem returnResumesAfterCall : Obligations.ReturnResumesAfterCall := by
  intro s t u nnn hroom hcall hstack
  obtain ⟨t', hcall', hsp, hslots, _, _⟩ := callPushesAndJumps s nnn hroom
  cases hcall.symm.trans hcall'
  obtain ⟨husp, huslots⟩ := hstack
  obtain ⟨v, hret, hvsp, hvslots, hvpc, _⟩ := returnPopsAndAdvances u ⟨s.sp.val, hroom⟩ (by rw [husp, hsp])
  refine ⟨v, hret, ?_, Fin.ext hvsp, fun j hj => ?_⟩
  · rw [hvpc, huslots, hslots, if_pos rfl]
  · rw [hvslots, huslots, hslots, if_neg hj.ne]

/-- Settles O15: the next state is `s.setPc (s.offsetTarget nnn)`. -/
theorem jumpOffsetAddsV0 : Obligations.JumpOffsetAddsV0 :=
  fun s nnn => ⟨_, rfl, s.toNat_offsetTarget nnn, s.toNat_offsetTarget_le nnn, s.sameBut_pc_setPc _⟩
end

section
/-! SUPPORT. The sum of `ADD I,Vx` (spec/43_index_random.md R181); the low four bits of a register
(spec/45_keypad_timers.md R200). -/

namespace Sys2Proof.Machine

variable (s : State) (x : Nibble)

theorem State.toNat_setWidth_indexSum :
    ((s.indexSum x).setWidth 16).toNat = (s.idx.toNat + (s.getV x).toNat) % 65536 := by
  rw [BitVec.toNat_setWidth, State.toNat_indexSum]

theorem State.indexExceeds_flag : (if indexExceeds (s.indexSum x) then 1 else 0 : Byte) =
    if 0xFFF < s.idx.toNat + (s.getV x).toNat then 1 else 0 := by
  simp only [indexExceeds, State.toNat_indexSum, decide_eq_true_eq]

theorem exec_addIndex_of_legacy (h : s.params.legacyIOverflowFlag = true) : exec (.addIndex x) s =
    .next ((s.setIdx ((s.indexSum x).setWidth 16)).setFlag (indexExceeds (s.indexSum x))).advance :=
  congrArg (fun u : State => Host.Outcome.next u.advance) (if_pos h)

theorem exec_addIndex_of_default (h : ¬ s.params.legacyIOverflowFlag = true) :
    exec (.addIndex x) s = .next (s.setIdx ((s.indexSum x).setWidth 16)).advance :=
  congrArg (fun u : State => Host.Outcome.next u.advance) (if_neg h)

theorem State.toNat_lowNibble : (s.lowNibble x).toNat = (s.getV x).toNat % 16 := by
  rw [State.lowNibble, BitVec.extractLsb'_toNat, Nat.shiftRight_zero]

theorem State.lowNibble_eq {k : Nibble} (hk : k.toNat = (s.getV x).toNat % 16) : s.lowNibble x = k :=
  BitVec.eq_of_toNat_eq ((s.toNat_lowNibble x).trans hk.symm)

/-- The search for a pressed key finds the one below which no key is down. -/
theorem State.firstKey_eq_some {k : Nibble} (hk : s.key k = true)
    (hlow : ∀ j : Nibble, j.toNat < k.toNat → s.key j = false) :
    s.firstKey = some k := by
  rcases s.firstKey_spec with ⟨j, hj, hdown, hjlow⟩ | ⟨_, hnone⟩
  · have hkj : ¬ j.toNat < k.toNat := fun h => Bool.false_ne_true ((hlow j h).symm.trans hdown)
    have hjk : ¬ k.toNat < j.toNat := fun h => Bool.false_ne_true ((hjlow k h).symm.trans hk)
    rw [hj, BitVec.eq_of_toNat_eq (show j.toNat = k.toNat by omega)]
  · rw [hnone k] at hk
    cases hk

theorem State.firstKey_eq_none (hnone : ∀ k, s.key k = false) : s.firstKey = none := by
  rcases s.firstKey_spec with ⟨j, _, hdown, _⟩ | ⟨h, _⟩
  · rw [hnone j] at hdown
    cases hdown
  · exact h

end Sys2Proof.Machine
end

section
/-! The statements of spec/43_index_random.md, spec/45_keypad_timers.md and the first of spec/46_memory_ops.md. -/

open Sys2Proof Sys2Proof.Machine

/-- Settles O24: `I` gets the sum in both modes; in legacy mode the flag is written over it. -/
theorem addIndexWrapsAt65536 : Obligations.AddIndexWrapsAt65536 := by
  intro s x
  by_cases hlegacy : s.params.legacyIOverflowFlag = true
  · refine ⟨_, exec_addIndex_of_legacy s x hlegacy, s.toNat_setWidth_indexSum x, ?_,
      fun r hr => State.getV_setV_ne _ vf _ hr, rfl, s.sameBut_setIdx_setFlag_advance _ _⟩
    rw [if_pos hlegacy, State.getV_advance, State.getV_setFlag, if_pos rfl, s.indexExceeds_flag]
  · exact ⟨_, exec_addIndex_of_default s x hlegacy, s.toNat_setWidth_indexSum x, (if_neg hlegacy).symm,
      fun _ _ => rfl, rfl, (s.sameBut_index_pc_setIdx_advance _).mono (fun _ => List.mem_cons_of_mem _)⟩

/-- Settles O25: `AND` with `kk` clears the bits that `kk` lacks, whatever the free byte is. -/
theorem randomByteUnderMask : Obligations.RandomByteUnderMask := by
  intro s x kk
  have hv : (s.countDraw.setV x (s.rndInput &&& kk)).advance.getV x = Config.rnd s.draws &&& kk :=
    State.getV_setV_same _ x _
  refine ⟨_, rfl, hv, fun k hk => ?_, rfl, fun r hr => State.getV_setV_ne _ x _ hr, rfl,
    s.sameBut_countDraw_setV_advance _ _⟩
  rw [hv, BitVec.getLsbD_and, hk, Bool.and_false]

/-- Settles O29: both are `skipIf` of the key that the low four bits name. -/
theorem keySkips : Obligations.KeySkips := by
  intro s x k hk
  obtain rfl := s.lowNibble_eq x hk
  constructor
  · exact ⟨_, rfl, State.skipIf_pc_of_iff Iff.rfl, s.sameBut_pc_skipIf _⟩
  · exact ⟨_, rfl, State.skipIf_pc_of_iff (Bool.not_eq_true' _).to_iff, s.sameBut_pc_skipIf _⟩

/-- Settles O30: the search finds `k`, and the instruction is `putV` of it. -/
theorem waitKeyTakesLowestKey : Obligations.WaitKeyTakesLowestKey := by
  intro s x k hdown hlow
  obtain ⟨t, ht, hx, hframe⟩ := s.putV_next x (k.setWidth 8)
  refine ⟨t, ?_, ?_, hframe⟩
  · rw [← ht, exec, execWaitKey, s.firstKey_eq_some hdown hlow]
  · rw [hx, BitVec.toNat_setWidth_of_le (by decide)]

/-- Settles O31: the search finds no key, and the next state is the state itself. -/
theorem waitKeyHolds : Obligations.WaitKeyHolds := by
  intro s x hnone
  refine ⟨s, ?_, .refl s⟩
  rw [exec, execWaitKey, s.firstKey_eq_none hnone]

/-- Settles O33: the address of the last glyph is below 65536, so nothing wraps. -/
theorem fontAddressOfDigit : Obligations.FontAddressOfDigit := by
  intro s x
  refine ⟨_, rfl, ?_, rfl, s.sameBut_index_pc_setIdx_advance _⟩
  rw [State.advance_idx, State.setIdx_idx, State.toNat_lowNibble, BitVec.toNat_ofNat, Config.fontBase,
    Config.glyphBytes]
  omega
end

section
/-! SUPPORT. Instructions that touch the bytes from `I` on, inside memory and outside it (spec/20_memory.md R62, R63;
spec/46_memory_ops.md R222 to R224). -/

namespace Sys2Proof.Machine

variable (s : State) (x : Nibble)

/-! ## The range check -/

theorem exec_storeBcd_inside (h : s.idx.toNat + 2 ≤ 0xFFF) :
    exec (.storeBcd x) s = .next (s.writeBytes s.idx.toNat (bcdDigits (s.getV x))).advance := by
  rw [exec, execStoreBcd]
  exact s.withRange_inside _ (.inr (by omega))

theorem exec_dumpRegs_inside (h : s.idx.toNat + x.toNat ≤ 0xFFF) :
    exec (.dumpRegs x) s = .next (s.writeBytes s.idx.toNat (s.firstRegs (x.toNat + 1))).advance := by
  rw [exec, execDumpRegs]
  exact s.withRange_inside _ (.inr (by omega))

theorem exec_loadRegs_inside (h : s.idx.toNat + x.toNat ≤ 0xFFF) :
    exec (.loadRegs x) s = .next (s.loadFirst s.idx.toNat (x.toNat + 1)).advance := by
  rw [exec, execLoadRegs]
  exact s.withRange_inside _ (.inr (by omega))

/-- An access whose last byte lies above 0xFFF is the fault entry with the lowest such address. -/
theorem State.withRange_faulted {n last : Nat} (k : State → Result) (hn : n = last + 1)
    (h : 0xFFF < s.idx.toNat + last) : ∃ t a, s.withRange n k = .next t ∧ Faulted (.outOfBoundsAccess a) s t ∧
      a.toNat = if 0xFFF < s.idx.toNat then s.idx.toNat else 0x1000 := by
  have hidx := s.idx.isLt
  exact ⟨_, _, s.withRange_outside k (by omega) (by omega), s.faulted_raise _, toNat_lowestOutside _ (by omega)⟩

/-! ## Memory after a store -/

theorem State.readByte_writeBytes_firstRegs (a n c : Nat) : (s.writeBytes a (s.firstRegs n)).readByte c =
    if a ≤ c ∧ c - a < n then s.getV (BitVec.ofNat 4 (c - a)) else s.readByte c := by
  rw [State.readByte_writeBytes]
  simp only [State.length_firstRegs, State.getElem_firstRegs, dite_eq_ite]

theorem State.readByte_writeBytes_bcdDigits (a : Nat) (b : Byte) (c : Nat) :
    (s.writeBytes a (bcdDigits b)).readByte c =
      if c = a then BitVec.ofNat 8 (b.toNat / 100)
      else if c = a + 1 then BitVec.ofNat 8 (b.toNat / 10 % 10)
      else if c = a + 2 then BitVec.ofNat 8 (b.toNat % 10) else s.readByte c := by
  simp only [bcdDigits, State.writeBytes, State.readByte_writeByte]
  by_cases h2 : c = a + 2
  · rw [if_pos h2, if_neg (show c ≠ a by omega), if_neg (show c ≠ a + 1 by omega), if_pos h2]
  · rw [if_neg h2, if_neg h2]
    by_cases h1 : c = a + 1
    · rw [if_pos h1, if_neg (show c ≠ a by omega), if_pos h1]
    · rw [if_neg h1, if_neg h1]

theorem toNat_ofNat_byte {n : Nat} (h : n < 256) : (BitVec.ofNat 8 n).toNat = n := by
  rw [BitVec.toNat_ofNat, Nat.mod_eq_of_lt h]

end Sys2Proof.Machine
end

section
/-! The statements of spec/46_memory_ops.md and spec/20_memory.md on loads and stores. -/

open Sys2Proof Sys2Proof.Machine

/-- Settles O34: the three bytes written are the digits, each below 256. -/
theorem bcdStoresThreeDigits : Obligations.BcdStoresThreeDigits := by
  intro s x hin
  have hv := (s.getV x).isLt
  have hread := s.readByte_writeBytes_bcdDigits s.idx.toNat (s.getV x)
  refine ⟨_, exec_storeBcd_inside s x hin, ?_, ?_, ?_, fun a ha => ?_, by simp,
    s.sameBut_memory_pc_writeBytes_advance _ _⟩ <;> rw [State.readByte_advance, hread]
  · rw [if_pos rfl, toNat_ofNat_byte (by omega)]
  · rw [if_neg (by omega), if_pos rfl, toNat_ofNat_byte (by omega)]
  · rw [if_neg (by omega), if_neg (by omega), if_pos rfl, toNat_ofNat_byte (by omega)]
  · rw [if_neg (by omega), if_neg (by omega), if_neg (by omega)]

/-- Settles O35: the bytes written are the registers in their order. -/
theorem dumpStoresRegisters : Obligations.DumpStoresRegisters := by
  intro s x hin
  refine ⟨_, exec_dumpRegs_inside s x hin, fun k hk => ?_, fun a ha => ?_, by simp,
    s.sameBut_memory_pc_writeBytes_advance _ _⟩ <;> rw [State.readByte_advance, State.readByte_writeBytes_firstRegs]
  · rw [if_pos (by omega), Nat.add_sub_cancel_left, BitVec.ofNat_toNat, BitVec.setWidth_eq]
  · rw [if_neg (by omega)]

/-- Settles O36: `State.getV_loadFirst`, for the `x + 1` registers loaded. -/
theorem loadReadsRegisters : Obligations.LoadReadsRegisters := by
  intro s x hin
  refine ⟨_, exec_loadRegs_inside s x hin, fun k hk => ?_, fun k hk => ?_, by simp,
    s.sameBut_regs_pc_loadFirst_advance _ _⟩ <;> rw [State.getV_advance, State.getV_loadFirst _ _ _ x.isLt]
  · rw [if_pos (by omega)]
  · rw [if_neg (by omega)]

/-- Settles O37: all four make the range check before anything else. -/
theorem rangeFaultBeforeAnyWrite : Obligations.RangeFaultBeforeAnyWrite := by
  rintro s i last (⟨x, rfl, rfl⟩ | ⟨x, rfl, rfl⟩ | ⟨x, rfl, rfl⟩ | ⟨x, y, n, rfl, hn⟩) hout
  · rw [exec, execStoreBcd]
    exact s.withRange_faulted _ rfl hout
  · rw [exec, execDumpRegs]
    exact s.withRange_faulted _ rfl hout
  · rw [exec, execLoadRegs]
    exact s.withRange_faulted _ rfl hout
  · rw [exec, execDraw]
    exact s.withRange_faulted _ hn hout

/-- Settles O38: the load reads the bytes that the dump wrote (`dumpStoresRegisters`, `loadReadsRegisters`). -/
theorem dumpThenLoadRestores : Obligations.DumpThenLoadRestores := by
  intro s t u x hin hdump hmem hidx
  obtain ⟨t', hdump', hbytes, _⟩ := dumpStoresRegisters s x hin
  cases hdump.symm.trans hdump'
  obtain ⟨w, hload, hregs, _⟩ := loadReadsRegisters u x (hidx ▸ hin)
  refine ⟨w, hload, fun k hk => ?_⟩
  calc w.getV k = u.readByte (s.idx.toNat + k.toNat) := hidx ▸ hregs k hk
    _ = t.readByte (s.idx.toNat + k.toNat) := hmem _
    _ = s.getV k := hbytes k hk

/-- Settles O39: `b` is the memory after the store, byte by byte, and `pc` has advanced to the word that decodes. -/
theorem storedWordIsFetched : Obligations.StoredWordIsFetched := by
  intro s t i j b hexec hstore hpc hd
  have hafter : t.pc = s.pc + 2 ∧ ∀ a, t.readByte a = b a := by
    rcases hstore with ⟨x, ⟨rfl, hin, hb⟩ | ⟨rfl, hin, hb⟩⟩
    · cases hexec.symm.trans (exec_dumpRegs_inside s x hin)
      refine ⟨by simp, fun a => ?_⟩
      rw [State.readByte_advance, State.readByte_writeBytes_firstRegs, hb]
      exact if_congr (by omega) rfl rfl
    · cases hexec.symm.trans (exec_storeBcd_inside s x hin)
      refine ⟨by simp, fun a => ?_⟩
      rw [State.readByte_advance, State.readByte_writeBytes_bcdDigits, hb]
  obtain ⟨hpc', hbytes⟩ := hafter
  refine coreStep_of_decode_ok (hpc' ▸ hpc) ?_
  rw [hpc', hbytes, hbytes, wordOfBytes_eq, hd]
end

section
/-! SUPPORT. `DRW` inside memory: the blitter run on the sprite bytes at `I` (spec/44_display.md R192, R193). -/

namespace Sys2Proof.Machine

variable (s : State) (x y n : Nibble)

/-- The rows the blitter covers are those of the sprite at `I`. -/
theorem rowsCover_readBytes_iff (cx cy : Byte) (r : Fin 32) (c : Fin 64) :
    rowsCover cx cy 0 (s.readBytes s.idx.toNat n.toNat) r c ↔ SpriteCovers s cx cy n r c := by
  constructor
  · rintro ⟨row, hrow, hr, col, hcol, hbit, hc⟩
    rw [State.getElem_readBytes] at hbit
    rw [State.length_readBytes] at hrow
    refine ⟨row, col, hrow, hcol, hbit, ?_, ?_⟩
    · rw [hr, Nat.zero_add]; rfl
    · rw [hc]; rfl
  · rintro ⟨row, col, hrow, hcol, hbit, hr, hc⟩
    refine ⟨row, by rwa [State.length_readBytes], ?_, col, hcol, ?_, ?_⟩
    · rw [Nat.zero_add]; exact Fin.ext hr.symm
    · rw [State.getElem_readBytes]; exact hbit
    · exact Fin.ext hc.symm

/-- The blitter's result for the sprite at `I`. -/
def State.spriteBlit : Blit := blit (s.getV x) (s.getV y) (s.readBytes s.idx.toNat n.toNat) s.fb

theorem State.getV_drawSprite (r : Nibble) : (s.drawSprite x y n).getV r =
    if r = vf then (if (s.spriteBlit x y n).collision then 1 else 0) else s.getV r :=
  State.getV_setFlag _ _ r

theorem State.blitOf_spriteBlit :
    BlitOf (SpriteCovers s (s.getV x) (s.getV y) n) ⟨s.fb, false⟩ (s.spriteBlit x y n) := by
  have hcover : rowsCover (s.getV x) (s.getV y) 0 (s.readBytes s.idx.toNat n.toNat) =
      SpriteCovers s (s.getV x) (s.getV y) n :=
    funext fun r => funext fun c => propext (rowsCover_readBytes_iff s n _ _ r c)
  have hlen : (s.readBytes s.idx.toNat n.toNat).length ≤ 32 := by
    have hn := n.isLt
    rw [State.length_readBytes]
    omega
  exact hcover ▸ blit_spec _ _ _ s.fb hlen

theorem exec_draw_inside (h : n = 0 ∨ s.idx.toNat + n.toNat ≤ 0x1000) :
    exec (.draw x y n) s = .next (s.drawSprite x y n) := by
  rw [exec, execDraw]
  refine s.withRange_inside _ (h.imp ?_ id)
  rintro rfl
  rfl

/-- The sprite is the same in a state with the same memory and the same `I`. -/
theorem spriteCovers_congr {u : State} (hmem : Same .memory s u) (hidx : u.idx = s.idx) (cx cy : Byte) :
    SpriteCovers u cx cy n = SpriteCovers s cx cy n := by
  have hbyte : ∀ a, u.readByte a = s.readByte a := hmem
  funext r c
  simp only [SpriteCovers, hbyte, hidx]

end Sys2Proof.Machine
end

section
/-! The statements of spec/44_display.md on `DRW`. -/

open Sys2Proof Sys2Proof.Machine

/-- Settles O27: the law of the blitter (`State.blitOf_spriteBlit`); VF is its collision flag. -/
theorem drawXorsSprite : Obligations.DrawXorsSprite := by
  intro s x y n hin
  have hblit := s.blitOf_spriteBlit x y n
  have hvf : (s.drawSprite x y n).getV vf = if (s.spriteBlit x y n).collision then 1 else 0 :=
    (s.getV_drawSprite x y n vf).trans (if_pos rfl)
  refine ⟨_, exec_draw_inside s x y n hin, hblit.inside, hblit.outside, ?_, ?_, rfl, fun r hr => ?_, rfl,
    s.sameBut_drawSprite x y n⟩
  · rw [hvf]
    split
    · exact .inr rfl
    · exact .inl rfl
  · have hflag : ∀ f : Bool, (if f then 1 else 0 : Byte) = 1 ↔ f = true := by decide
    rw [hvf, hflag, hblit.collision]
    exact or_iff_right Bool.false_ne_true
  · rw [State.getV_drawSprite, if_neg hr]

/-- Settles O28: the second draw covers the same pixels, so it toggles them back, and it meets a set pixel where the
first draw found one that was 0. -/
theorem drawTwiceRestoresScreen : Obligations.DrawTwiceRestoresScreen := by
  intro s t u x y n hin hdraw hscreen hmem hidx hx hy
  obtain ⟨t', hdraw', hinside, houtside, _⟩ := drawXorsSprite s x y n hin
  cases hdraw.symm.trans hdraw'
  obtain ⟨w, hdraw2, hinside2, houtside2, _, hcol2, _⟩ := drawXorsSprite u x y n (hidx ▸ hin)
  rw [spriteCovers_congr s n hmem hidx, hx, hy] at hinside2 houtside2 hcol2
  have hscreen : ∀ r c, pixel u.fb r c = pixel t.fb r c := hscreen
  refine ⟨w, hdraw2, fun r c => ?_, hcol2.trans ?_⟩
  · by_cases hcov : SpriteCovers s (s.getV x) (s.getV y) n r c
    · rw [hinside2 r c hcov, hscreen, hinside r c hcov, Bool.not_not]
    · rw [houtside2 r c hcov, hscreen, houtside r c hcov]
  · refine exists_congr fun r => exists_congr fun c => and_congr_right fun hcov => ?_
    rw [hscreen, hinside r c hcov, Bool.not_eq_true']
end
